-- ==== Sys2Proof/Word.lean ====
section
/-! DEFINITION. The word types of DHTDEC (spec/00_scope.md R10, spec/30_encoding.md R70, R71). -/

namespace Sys2Proof

/-- One 8-bit host register, DATA byte or `rdata` value (20_memory.md R51, R53). -/
abbrev Byte := BitVec 8

/-- A timer configuration register or a snapshot register: P_TREG_W = 8 bits (00_scope.md R7, 92 D19). -/
abbrev TReg := BitVec 8

/-- A host-port word of format HPW, 12 bits (30_encoding.md R70). -/
abbrev HpwWord := BitVec 12

/-- A micro-operation code of format UOP, 4 bits (30_encoding.md R71). -/
abbrev UopCode := BitVec 4

/-- P_NBITS: data bits per frame (00_scope.md R7). -/
abbrev nBits : Nat := 40

end Sys2Proof
end

