-- ==== Sys2Proof/Syntax.lean ====
section
/-! DEFINITION. The instructions: one constructor for each of the 29 rows of spec/opcode_table.json, format HPW
(30_encoding.md R73) and format UOP (R75); and the assembler's lines (R78, R79). -/

namespace Sys2Proof

/-- The ten micro-operations (30_encoding.md R75), the names of the event history's records. The reserved codes
are not among them: they are never emitted (R76). -/
inductive Uop where
  | acquire
  | cfgCoarse
  | cfgFine
  | elapsed
  | release
  | dirOut
  | dirIn
  | lineLow
  | lineHigh
  | lineRead
  deriving DecidableEq, Repr

/-- An instruction. `d` is the WDATA field of a host word; every rule but FETCH, NOP and the reserved command
ignores it (30_encoding.md R72). -/
inductive Instr where
  /-- 0x801 (43_host_interface.md R181) -/
  | wrCmdFetch
  /-- 0x800 (43 R182) -/
  | wrCmdNop
  /-- 0x802-0x8FF (43 R184) -/
  | reservedCmd (d : Byte)
  /-- 0x9xx (43 R183) -/
  | wrStatus (d : Byte)
  /-- 0xAxx (43 R183) -/
  | wrData0 (d : Byte)
  /-- 0xBxx (43 R183) -/
  | wrData1 (d : Byte)
  /-- 0xCxx (43 R183) -/
  | wrData2 (d : Byte)
  /-- 0xDxx (43 R183) -/
  | wrData3 (d : Byte)
  /-- 0xExx (43 R183) -/
  | wrPhase (d : Byte)
  /-- 0xFxx (43 R183) -/
  | wrBitcnt (d : Byte)
  /-- 0x0xx (43 R185) -/
  | rdCmd (d : Byte)
  /-- 0x1xx (43 R186) -/
  | rdStatus (d : Byte)
  /-- 0x2xx (43 R187) -/
  | rdData0 (d : Byte)
  /-- 0x3xx (43 R188) -/
  | rdData1 (d : Byte)
  /-- 0x4xx (43 R189) -/
  | rdData2 (d : Byte)
  /-- 0x5xx (43 R190) -/
  | rdData3 (d : Byte)
  /-- 0x6xx (43 R191) -/
  | rdPhase (d : Byte)
  /-- 0x7xx (43 R192) -/
  | rdBitcnt (d : Byte)
  /-- UOP 0x1 (40_timer_context.md R100) -/
  | acquire
  /-- UOP 0x2 (40 R101) -/
  | cfgCoarse
  /-- UOP 0x3 (40 R102) -/
  | cfgFine
  /-- UOP 0x4 (40 R103) -/
  | elapsed
  /-- UOP 0x5 (40 R104) -/
  | release
  /-- UOP 0x6 (41_line_io.md R120) -/
  | dirOut
  /-- UOP 0x7 (41 R121) -/
  | dirIn
  /-- UOP 0x8 (41 R122) -/
  | lineLow
  /-- UOP 0x9 (41 R123) -/
  | lineHigh
  /-- UOP 0xA (41 R124) -/
  | lineRead
  /-- UOP 0x0 and 0xB-0xF (30_encoding.md R76) -/
  | reservedUop (u : UopCode)
  deriving DecidableEq, Repr

/-- The two formats (30_encoding.md R70, R71). -/
inductive Format where
  | hpw
  | uop
  deriving DecidableEq, Repr

/-- An encoded instruction: a host word or a micro-operation code. -/
inductive EncWord where
  | hpw (w : HpwWord)
  | uop (u : UopCode)
  deriving DecidableEq, Repr

/-- The named host registers (20_memory.md R52). -/
inductive HostReg where
  | cmd
  | status
  | data0
  | data1
  | data2
  | data3
  | phase
  | bitcnt
  deriving DecidableEq, Repr

/-- One line of a host program (30_encoding.md R78). The immediate is the literal as written. -/
inductive AsmLine where
  | wr (r : HostReg) (imm : Nat)
  | rd (r : HostReg)
  deriving DecidableEq, Repr

/-- The pseudo-instructions of 30_encoding.md R79; `n` is how often WAITDONE read STATUS. -/
inductive Pseudo where
  | fetch
  | nop
  | waitDone (n : Nat)
  | readData
  | fetchData (n : Nat)
  deriving DecidableEq, Repr

end Sys2Proof
end

