-- ==== Sys2Proof/WellFormed.lean ====
section
/-! DEFINITION. Well-formed instructions: the reserved rows stand only for the values no other row matches
(30_encoding.md R73, R74, R75, R76); every other constructor admits every operand. -/

namespace Sys2Proof

/-- A CMD value that is reserved: 0x02-0xFF (30_encoding.md R74). -/
def reservedCmdValue (d : Byte) : Bool := decide (d ≠ 0x00#8) && decide (d ≠ 0x01#8)

/-- A UOP code that is reserved: 0x0 and 0xB-0xF (30_encoding.md R75, R76). -/
def reservedUopCode (u : UopCode) : Bool := decide (u = 0x0#4) || decide (0xB#4 ≤ u)

/-- The instruction is one that some word encodes. -/
def Instr.wellFormed : Instr → Bool
  | .wrCmdFetch => true
  | .wrCmdNop => true
  | .reservedCmd d => reservedCmdValue d
  | .wrStatus _ => true
  | .wrData0 _ => true
  | .wrData1 _ => true
  | .wrData2 _ => true
  | .wrData3 _ => true
  | .wrPhase _ => true
  | .wrBitcnt _ => true
  | .rdCmd _ => true
  | .rdStatus _ => true
  | .rdData0 _ => true
  | .rdData1 _ => true
  | .rdData2 _ => true
  | .rdData3 _ => true
  | .rdPhase _ => true
  | .rdBitcnt _ => true
  | .acquire => true
  | .cfgCoarse => true
  | .cfgFine => true
  | .elapsed => true
  | .release => true
  | .dirOut => true
  | .dirIn => true
  | .lineLow => true
  | .lineHigh => true
  | .lineRead => true
  | .reservedUop u => reservedUopCode u

/-- An assembler line is accepted: the literal is in 0-255 (30_encoding.md R78). -/
def AsmLine.wellFormed : AsmLine → Bool
  | .wr _ imm => decide (imm ≤ 255)
  | .rd _ => true

/-- WAITDONE reads STATUS at least once (30_encoding.md R79: n >= 1). -/
def Pseudo.wellFormed : Pseudo → Bool
  | .fetch => true
  | .nop => true
  | .waitDone n => decide (1 ≤ n)
  | .readData => true
  | .fetchData n => decide (1 ≤ n)

end Sys2Proof
end

