-- ==== Sys2Proof/Decode.lean ====
section
/-! DEFINITION. Decoding of host words (30_encoding.md R70, R72, R73, R77) and of micro-operation codes (R71, R75,
R76), the byte containers they are stored in (log entry 16), the encoder, and the assembler (R78, R79). -/

namespace Sys2Proof

/-- The WE field, bit 11 (30_encoding.md R70). -/
def HpwWord.we (w : HpwWord) : Bool := w.getLsbD 11

/-- The ADDR field, bits 10:8 (30_encoding.md R70). -/
def HpwWord.addr (w : HpwWord) : BitVec 3 := w.extractLsb' 8 3

/-- The WDATA field, bits 7:0 (30_encoding.md R70). -/
def HpwWord.wdata (w : HpwWord) : Byte := w.extractLsb' 0 8

/-- A write to CMD (30_encoding.md R74). -/
def decodeCmd (d : Byte) : Instr :=
  if d = 0x00#8 then .wrCmdNop else if d = 0x01#8 then .wrCmdFetch else .reservedCmd d

/-- A write (WE = 1), by address (30_encoding.md R73). -/
def decodeWrite (a : BitVec 3) (d : Byte) : Instr :=
  match a.toNat with
  | 0 => decodeCmd d
  | 1 => .wrStatus d
  | 2 => .wrData0 d
  | 3 => .wrData1 d
  | 4 => .wrData2 d
  | 5 => .wrData3 d
  | 6 => .wrPhase d
  | _ => .wrBitcnt d

/-- A read (WE = 0), by address (30_encoding.md R73); WDATA has no meaning (R72). -/
def decodeRead (a : BitVec 3) (d : Byte) : Instr :=
  match a.toNat with
  | 0 => .rdCmd d
  | 1 => .rdStatus d
  | 2 => .rdData0 d
  | 3 => .rdData1 d
  | 4 => .rdData2 d
  | 5 => .rdData3 d
  | 6 => .rdPhase d
  | _ => .rdBitcnt d

/-- The host-port decoder: total on the 4096 words (30_encoding.md R77). -/
def decodeHpw (w : HpwWord) : Instr :=
  if w.we then decodeWrite w.addr w.wdata else decodeRead w.addr w.wdata

/-- The micro-operation decoder (30_encoding.md R75). -/
def decodeUop (u : UopCode) : Instr :=
  match u.toNat with
  | 1 => .acquire
  | 2 => .cfgCoarse
  | 3 => .cfgFine
  | 4 => .elapsed
  | 5 => .release
  | 6 => .dirOut
  | 7 => .dirIn
  | 8 => .lineLow
  | 9 => .lineHigh
  | 10 => .lineRead
  | _ => .reservedUop u

/-- The decoder of one word of either format. -/
def decode : EncWord → Instr
  | .hpw w => decodeHpw w
  | .uop u => decodeUop u

/-- Why bytes are no instruction. -/
inductive DecodeError where
  /-- fewer bytes than the container has -/
  | tooShort (f : Format)
  /-- a bit of the container above the word's width is 1 -/
  | padNotZero (f : Format)
  deriving DecidableEq, Repr

/-- Decode the first instruction of a byte list, with the bytes that follow it. A host word's 12 bits stand in two
bytes, low byte first, a micro-operation's 4 bits in one; the bits above are 0 (DESIGN CHOICE, log entry 16). -/
def decodeBytes : Format → List Byte → Except DecodeError (Instr × List Byte)
  | .hpw, lo :: hi :: rest =>
    if hi.extractLsb' 4 4 = 0#4 then .ok (decodeHpw (hi.extractLsb' 0 4 ++ lo), rest)
    else .error (.padNotZero .hpw)
  | .hpw, [_] => .error (.tooShort .hpw)
  | .hpw, [] => .error (.tooShort .hpw)
  | .uop, b :: rest =>
    if b.extractLsb' 4 4 = 0#4 then .ok (decodeUop (b.extractLsb' 0 4), rest)
    else .error (.padNotZero .uop)
  | .uop, [] => .error (.tooShort .uop)

/-- The word of a write to address `a` (30_encoding.md R70). -/
def hpwWrite (a : BitVec 3) (d : Byte) : HpwWord := 1#1 ++ a ++ d

/-- The word of a read of address `a` (30_encoding.md R70). -/
def hpwRead (a : BitVec 3) (d : Byte) : HpwWord := 0#1 ++ a ++ d

/-- The code of a micro-operation (30_encoding.md R75). -/
def Uop.code : Uop → UopCode
  | .acquire => 0x1#4
  | .cfgCoarse => 0x2#4
  | .cfgFine => 0x3#4
  | .elapsed => 0x4#4
  | .release => 0x5#4
  | .dirOut => 0x6#4
  | .dirIn => 0x7#4
  | .lineLow => 0x8#4
  | .lineHigh => 0x9#4
  | .lineRead => 0xA#4

/-- The encoder (30_encoding.md R73, R75). -/
def encode : Instr → EncWord
  | .wrCmdFetch => .hpw (hpwWrite 0 0x01#8)
  | .wrCmdNop => .hpw (hpwWrite 0 0x00#8)
  | .reservedCmd d => .hpw (hpwWrite 0 d)
  | .wrStatus d => .hpw (hpwWrite 1 d)
  | .wrData0 d => .hpw (hpwWrite 2 d)
  | .wrData1 d => .hpw (hpwWrite 3 d)
  | .wrData2 d => .hpw (hpwWrite 4 d)
  | .wrData3 d => .hpw (hpwWrite 5 d)
  | .wrPhase d => .hpw (hpwWrite 6 d)
  | .wrBitcnt d => .hpw (hpwWrite 7 d)
  | .rdCmd d => .hpw (hpwRead 0 d)
  | .rdStatus d => .hpw (hpwRead 1 d)
  | .rdData0 d => .hpw (hpwRead 2 d)
  | .rdData1 d => .hpw (hpwRead 3 d)
  | .rdData2 d => .hpw (hpwRead 4 d)
  | .rdData3 d => .hpw (hpwRead 5 d)
  | .rdPhase d => .hpw (hpwRead 6 d)
  | .rdBitcnt d => .hpw (hpwRead 7 d)
  | .acquire => .uop (Uop.code .acquire)
  | .cfgCoarse => .uop (Uop.code .cfgCoarse)
  | .cfgFine => .uop (Uop.code .cfgFine)
  | .elapsed => .uop (Uop.code .elapsed)
  | .release => .uop (Uop.code .release)
  | .dirOut => .uop (Uop.code .dirOut)
  | .dirIn => .uop (Uop.code .dirIn)
  | .lineLow => .uop (Uop.code .lineLow)
  | .lineHigh => .uop (Uop.code .lineHigh)
  | .lineRead => .uop (Uop.code .lineRead)
  | .reservedUop u => .uop u

/-- The format of an encoded word. -/
def EncWord.format : EncWord → Format
  | .hpw _ => .hpw
  | .uop _ => .uop

/-- The container bytes of an encoded word, lowest address first (log entry 16). -/
def EncWord.bytes : EncWord → List Byte
  | .hpw w => [w.extractLsb' 0 8, 0#4 ++ w.extractLsb' 8 4]
  | .uop u => [0#4 ++ u]

/-- The instruction the decoder reads from a table word: up to 8 bits are a micro-operation's container, more a host
word's. Bits above the container make it no instruction. -/
def decodeTableWord (nbits w : Nat) : Option Instr :=
  if nbits ≤ 8 then
    if w < 2 ^ 8 then
      match decodeBytes .uop [BitVec.ofNat 8 w] with
      | .ok (i, _) => some i
      | .error _ => none
    else none
  else
    if w < 2 ^ 16 then
      match decodeBytes .hpw [BitVec.ofNat 8 w, BitVec.ofNat 8 (w / 2 ^ 8)] with
      | .ok (i, _) => some i
      | .error _ => none
    else none

/-- The address of a named host register (20_memory.md R52). -/
def HostReg.addr : HostReg → BitVec 3
  | .cmd => 0
  | .status => 1
  | .data0 => 2
  | .data1 => 3
  | .data2 => 4
  | .data3 => 5
  | .phase => 6
  | .bitcnt => 7

/-- The register an assembler name stands for; an unknown name is rejected (30_encoding.md R78). -/
def HostReg.ofName (n : String) : Option HostReg :=
  if n = "CMD" then some .cmd
  else if n = "STATUS" then some .status
  else if n = "DATA0" then some .data0
  else if n = "DATA1" then some .data1
  else if n = "DATA2" then some .data2
  else if n = "DATA3" then some .data3
  else if n = "PHASE" then some .phase
  else if n = "BITCNT" then some .bitcnt
  else none

/-- The register a numeric address 0-7 stands for (30_encoding.md R78). -/
def HostReg.ofNumber (n : Nat) : Option HostReg :=
  match n with
  | 0 => some .cmd
  | 1 => some .status
  | 2 => some .data0
  | 3 => some .data1
  | 4 => some .data2
  | 5 => some .data3
  | 6 => some .phase
  | 7 => some .bitcnt
  | _ => none

/-- The word of an assembler line; an out-of-range literal is rejected (30_encoding.md R78). -/
def assemble : AsmLine → Option HpwWord
  | .wr r imm => if imm ≤ 255 then some (hpwWrite r.addr (BitVec.ofNat 8 imm)) else none
  | .rd r => some (hpwRead r.addr 0x00#8)

/-- The words of a pseudo-instruction (30_encoding.md R79). -/
def Pseudo.words : Pseudo → List HpwWord
  | .fetch => [0x801#12]
  | .nop => [0x800#12]
  | .waitDone n => List.replicate n 0x100#12
  | .readData => [0x200#12, 0x300#12, 0x400#12, 0x500#12]
  | .fetchData n => 0x801#12 :: (List.replicate n 0x100#12 ++ [0x200#12, 0x300#12, 0x400#12, 0x500#12])

end Sys2Proof
end

