-- ==== Sys2Proof/Config.lean ====
section
/-! DEFINITION. The build parameters of 00_scope.md R7 as one record, their legality (R8), the record the
model's reset state carries, and the free values of the environment (log entries 1, 2, 5, 6). -/

namespace Sys2Proof

/-- P_TIMER_RUNNING (00_scope.md R7, 92 D30) as plain data: a Boolean expression over the bits of TCCRA and
TCCRB. Every predicate on the two registers is such an expression (log entry 5). -/
inductive RunPred where
  | const (b : Bool)
  /-- bit `i` of TCCRA -/
  | bitA (i : Nat)
  /-- bit `i` of TCCRB -/
  | bitB (i : Nat)
  | not (p : RunPred)
  | and (p q : RunPred)
  | or (p q : RunPred)
  deriving DecidableEq, Repr

/-- The value of the predicate for given contents of TCCRA and TCCRB. -/
def RunPred.eval : RunPred → TReg → TReg → Bool
  | .const b, _, _ => b
  | .bitA i, x, _ => x.getLsbD i
  | .bitB i, _, y => y.getLsbD i
  | .not p, x, y => !(p.eval x y)
  | .and p q, x, y => p.eval x y && q.eval x y
  | .or p q, x, y => p.eval x y || q.eval x y

/-- The parameters of 00_scope.md R7. P_NBITS and P_TREG_W are constants of the model (log entry 4). -/
structure Config where
  /-- P_CNT_W -/
  cntW : Nat
  /-- P_T_REQ, in coarse ticks -/
  tReq : Nat
  /-- P_T_RESP -/
  tResp : Nat
  /-- P_T_PRE_LOW -/
  tPreLow : Nat
  /-- P_T_PRE_HIGH -/
  tPreHigh : Nat
  /-- P_T_BIT_LOW -/
  tBitLow : Nat
  /-- P_T_BIT_HIGH -/
  tBitHigh : Nat
  /-- P_W0_MIN -/
  w0Min : Nat
  /-- P_W0_MAX -/
  w0Max : Nat
  /-- P_W1_MIN -/
  w1Min : Nat
  /-- P_W1_MAX -/
  w1Max : Nat
  /-- P_CFG_COARSE_A -/
  coarseA : TReg
  /-- P_CFG_COARSE_B -/
  coarseB : TReg
  /-- P_CFG_FINE_A -/
  fineA : TReg
  /-- P_CFG_FINE_B -/
  fineB : TReg
  /-- P_CFG_IMSK -/
  imsk : TReg
  /-- P_TIMER_RUNNING -/
  running : RunPred
  /-- P_TIMER_RESET: TCCRA -/
  resetA : TReg
  /-- P_TIMER_RESET: TCCRB -/
  resetB : TReg
  /-- P_TIMER_RESET: TIMSK -/
  resetM : TReg
  /-- P_TIMER_RESET: TCNT (taken modulo 2^P_CNT_W) -/
  resetCnt : Nat
  /-- P_F_CPU in hertz; physical timing only, no rule reads it (70_reset_and_hazards.md R250). -/
  fCpu : Nat
  /-- P_T_SETTLE in microseconds; a host duty (70 R234), no rule reads it. -/
  tSettle : Nat
  /-- P_HOST_BASE; only the host's own address decoder uses it (20_memory.md R66), see `Config.busAddr`. -/
  hostBase : Nat
  deriving DecidableEq, Repr

/-- 00_scope.md R8, PC1: disjoint windows with a gap. -/
def Config.pc1 (c : Config) : Bool :=
  decide (c.w0Min ≤ c.w0Max) && decide (c.w0Max < c.w1Min) && decide (c.w1Min ≤ c.w1Max)

/-- 00_scope.md R8, PC2: the counter reaches B + 1 before it wraps, for each of the five bounds. -/
def Config.pc2 (c : Config) : Bool :=
  decide (c.tResp + 1 ≤ 2 ^ c.cntW - 1) && decide (c.tPreLow + 1 ≤ 2 ^ c.cntW - 1) &&
  decide (c.tPreHigh + 1 ≤ 2 ^ c.cntW - 1) && decide (c.tBitLow + 1 ≤ 2 ^ c.cntW - 1) &&
  decide (c.tBitHigh + 1 ≤ 2 ^ c.cntW - 1)

/-- 00_scope.md R8, PC3. -/
def Config.pc3 (c : Config) : Bool :=
  decide (1 ≤ c.tReq) && decide (c.tReq ≤ 2 ^ c.cntW - 1)

/-- 00_scope.md R8, PC4: both DHTDEC configurations make the timer count. -/
def Config.pc4 (c : Config) : Bool :=
  c.running.eval c.coarseA c.coarseB && c.running.eval c.fineA c.fineB

/-- 00_scope.md R8, PC5: the whole bit-1 window can be measured. -/
def Config.pc5 (c : Config) : Bool := decide (c.w1Max ≤ c.tBitHigh)

/-- 00_scope.md R8: a legal parameter set. -/
def Config.legal (c : Config) : Bool := c.pc1 && c.pc2 && c.pc3 && c.pc4 && c.pc5

/-- The platform bus address of host register `a` (20_memory.md R66: relative to P_HOST_BASE). -/
def Config.busAddr (c : Config) (a : BitVec 3) : Nat := c.hostBase + a.toNat

/-- The parameter set of the model's reset state: the defaults of 00_scope.md R7 where it gives one. DESIGN CHOICE
(log entry 2) for the OPEN ones: 141 is the spec's illustrative P_T_REQ (92 D6), the timer values and
P_TIMER_RUNNING are the illustrative ones of 95_test_vectors.md section 3.1. PRESUMED (log entry 3): P_TIMER_RESET. -/
def Config.atReset : Config where
  cntW := 8
  tReq := 141
  tResp := 60
  tPreLow := 100
  tPreHigh := 100
  tBitLow := 70
  tBitHigh := 90
  w0Min := 20
  w0Max := 35
  w1Min := 60
  w1Max := 80
  coarseA := 0x00
  coarseB := 0x05
  fineA := 0x00
  fineB := 0x02
  imsk := 0x00
  running := .or (.bitB 0) (.or (.bitB 1) (.bitB 2))
  resetA := 0
  resetB := 0
  resetM := 0
  resetCnt := 0
  fCpu := 8000000
  tSettle := 2000000
  hostBase := 0

/-- FREE VALUE (log entry 6): `line_in` of a cycle whose input record the state does not list. -/
opaque Config.freeLine : Nat → Bool

/-- FREE VALUE (log entry 6): `tick` of a cycle whose input record the state does not list. -/
opaque Config.freeTick : Nat → Bool

end Sys2Proof
end

