-- ==== Sys2Proof/Machine/State.lean ====
section
/-! DEFINITION. The state of DHTDEC as plain data: every register of spec/10_state.md R20 twice (its start-of-cycle
value and the value staged for the end of the cycle, 00_scope.md R13), the model bookkeeping of R37, the build
parameters (00 R7), and the inputs of the cycles to come. -/

namespace Sys2Proof.Machine

/-- PHASE (10_state.md R21): all eight codes are used. -/
inductive Phase where
  | idle
  | requestStart
  | waitResponse
  | waitPreambleLow
  | waitPreambleHigh
  | bitLow
  | bitHigh
  | verify
  deriving DecidableEq, Repr

/-- CTX (10_state.md R25). -/
inductive Ctx where
  | free
  | held
  deriving DecidableEq, Repr

/-- REGIME (10_state.md R25); the value 3 is never written. -/
inductive Regime where
  | none
  | coarse
  | fine
  deriving DecidableEq, Repr

/-- STATUS.REASON (60_exceptions.md R200). -/
inductive Reason where
  | none
  | noResponse
  | preambleLow
  | preambleHigh
  | bitLowPhase
  | bitHighPhase
  | invalidBitTiming
  | checksumMismatch
  deriving DecidableEq, Repr

/-- The model faults (60_exceptions.md R216). Each is safe: the machine stops where the spec says nothing more. -/
inductive Fault where
  /-- Raised by WR_CMD_FETCH while PHASE is not IDLE (43_host_interface.md R181). Safe. -/
  | overlappingFetch
  /-- Raised by the cycle when another agent writes the timer in the ownership window (20_memory.md R60), or when
  DHTDEC alone is reset while BUSY = 1 (70_reset_and_hazards.md R232). Safe. -/
  | timerOwnershipViolation
  /-- Raised by ACQUIRE with CTX = HELD (40_timer_context.md R100). Safe. -/
  | nestedAcquire
  /-- Raised by CFG_COARSE and CFG_FINE with CTX = FREE (40 R101, R102). Safe. -/
  | configureWithoutAcquire
  /-- Raised by RELEASE with CTX = FREE (40 R104). Safe. -/
  | releaseWithoutAcquire
  deriving DecidableEq, Repr

/-- Why a step has no outcome. -/
inductive Refusal where
  /-- Raised by exec's arm of an instruction that has no meaning yet; no arm does. Safe. -/
  | notModelled (mnemonic : String)
  /-- Raised by every step of a machine whose parameters break PC1-PC5 (00_scope.md R8, 60_exceptions.md R217).
  Safe. -/
  | illegalParameters
  deriving DecidableEq, Repr

/-- The names of the refusals that REFUSED marks (60_exceptions.md R217). -/
inductive RefuseName where
  | reservedCommand
  | reservedUop
  | illegalParameters
  deriving DecidableEq, Repr

/-- The registers: DHTDEC's own and the shared timer's (10_state.md R20). -/
structure Regs where
  /-- PHASE, R21 -/
  phase : Phase
  /-- BITCNT, R22 -/
  bitcnt : BitVec 6
  /-- PAYLOAD, R23 -/
  payload : BitVec 40
  /-- SNAP_A, R24 -/
  snapA : TReg
  /-- SNAP_B, R24 -/
  snapB : TReg
  /-- SNAP_M, R24 -/
  snapM : TReg
  /-- CTX, R25 -/
  ctx : Ctx
  /-- REGIME, R25 -/
  regime : Regime
  /-- STATUS.BUSY, R26 -/
  busy : Bool
  /-- STATUS.DONE, R26 -/
  done : Bool
  /-- STATUS.OK, R26 -/
  ok : Bool
  /-- STATUS.REASON, R26 -/
  reason : Reason
  /-- DATA0, R28 -/
  data0 : Byte
  /-- DATA1, R28 -/
  data1 : Byte
  /-- DATA2, R28 -/
  data2 : Byte
  /-- DATA3, R28 -/
  data3 : Byte
  /-- LINE_OE, R30 -/
  lineOe : Bool
  /-- LINE_OUT, R30 -/
  lineOut : Bool
  /-- TCCRA, R29 -/
  tccra : TReg
  /-- TCCRB, R29 -/
  tccrb : TReg
  /-- TIMSK, R29 -/
  timsk : TReg
  /-- TCNT, R29: a number of P_CNT_W bits (log entry 4) -/
  tcnt : Nat
  deriving DecidableEq, Repr

/-- A write of another agent to the shared timer (40_timer_context.md R114). -/
inductive AgentWrite where
  | tccra (v : TReg)
  | tccrb (v : TReg)
  | timsk (v : TReg)
  | tcnt (v : Nat)
  deriving DecidableEq, Repr

/-- The reset input of a cycle (70_reset_and_hazards.md R232, R233). -/
inductive ResetIn where
  /-- no reset -/
  | run
  /-- the system reset: DHTDEC and the timer -/
  | system
  /-- DHTDEC alone -/
  | block
  deriving DecidableEq, Repr

/-- The inputs of one cycle (00_scope.md R13). -/
structure CycleIn where
  /-- the reset lines -/
  rst : ResetIn
  /-- the host transaction, if any (43_host_interface.md R180) -/
  host : Option HpwWord
  /-- the other agents' writes to the timer, in order (40 R114) -/
  agentWr : List AgentWrite
  /-- `line_in` (41_line_io.md R125) -/
  line : Bool
  /-- `tick` (40 R111) -/
  tick : Bool
  /-- the micro-operations a trace under check lists for the cycle; none: the decoder's phase rule issues its own
  (log entry 7) -/
  trace : Option (List UopCode)
  deriving DecidableEq, Repr

/-- A record of the event history (10_state.md R37). -/
inductive Event where
  /-- a micro-operation (30_encoding.md R71) -/
  | uop (cycle : Nat) (u : Uop)
  /-- a host transaction -/
  | host (cycle : Nat) (w : HpwWord)
  deriving DecidableEq, Repr

/-- The result signals of the current cycle: no registers (log entry 20). -/
structure Signals where
  /-- the host port's read data (30_encoding.md R70) -/
  rdata : Option Byte
  /-- the result of LINE_READ (41 R124) -/
  lineRes : Option Bool
  /-- the result of ELAPSED (40 R103) -/
  tickRes : Option Nat
  deriving DecidableEq, Repr

/-- No result in this cycle. -/
def Signals.quiet : Signals := ⟨none, none, none⟩

/-- The state of the machine. -/
structure State where
  /-- the build parameters; no step writes them (log entry 1) -/
  cfg : Config
  /-- the values at the start of the cycle -/
  cur : Regs
  /-- the values staged for the end of the cycle -/
  nxt : Regs
  /-- a write to TCNT is staged (its value stands in `nxt.tcnt`) -/
  cntWr : Bool
  /-- the result signals -/
  sig : Signals
  /-- the inputs of this cycle (the head) and of those to come (log entry 6) -/
  inputs : List CycleIn
  /-- the number of this cycle (log entry 19) -/
  cycle : Nat
  /-- the event history, oldest first (10_state.md R37) -/
  history : List Event
  /-- FAULTED with the fault's name (10_state.md R37; log entry 9) -/
  faulted : Option Fault
  /-- REFUSED with the first refusal's name (10_state.md R37; log entry 10) -/
  refused : Option RefuseName
  deriving DecidableEq, Repr

/-- The registers after a system reset (70_reset_and_hazards.md R230); the timer's are P_TIMER_RESET (R231). -/
def Regs.reset (c : Config) : Regs where
  phase := .idle
  bitcnt := 0
  payload := 0
  snapA := 0
  snapB := 0
  snapM := 0
  ctx := .free
  regime := .none
  busy := false
  done := false
  ok := false
  reason := .none
  data0 := 0x00
  data1 := 0x00
  data2 := 0x00
  data3 := 0x00
  lineOe := false
  lineOut := true
  tccra := c.resetA
  tccrb := c.resetB
  timsk := c.resetM
  tcnt := c.resetCnt % 2 ^ c.cntW

/-- The machine built with parameters `c`, right after its power-up reset, with the inputs `ins` to come. -/
def State.boot (c : Config) (ins : List CycleIn) : State where
  cfg := c
  cur := Regs.reset c
  nxt := Regs.reset c
  cntWr := false
  sig := .quiet
  inputs := ins
  cycle := 0
  history := []
  faulted := none
  refused := none

/-- The machine right after reset (70_reset_and_hazards.md R230, R231; log entries 2, 3, 6, 19). -/
def State.reset : State := State.boot Config.atReset []

end Sys2Proof.Machine
end

