-- ==== Sys2Proof/Machine/Operands.lean ====
section
/-! DEFINITION. What the decoder computes from its operands: the bit shift (10_state.md R23), the bytes of a frame, the
classifier (42_protocol_decoder.md R150), the checksum (R153), the line sample (41_line_io.md R125) and the codes of
PHASE (10_state.md R21). -/

namespace Sys2Proof.Machine

/-- PHASE's code (10_state.md R21). -/
def Phase.code : Phase → BitVec 3
  | .idle => 0
  | .requestStart => 1
  | .waitResponse => 2
  | .waitPreambleLow => 3
  | .waitPreambleHigh => 4
  | .bitLow => 5
  | .bitHigh => 6
  | .verify => 7

/-- `PAYLOAD[38:0] ++ b` (10_state.md R23). -/
def shiftIn (p : BitVec 40) (b : Bool) : BitVec 40 := p.extractLsb' 0 39 ++ BitVec.ofBool b

/-- byte0, the first received (10_state.md R23). -/
def payloadByte0 (p : BitVec 40) : Byte := p.extractLsb' 32 8

/-- byte1 (10_state.md R23). -/
def payloadByte1 (p : BitVec 40) : Byte := p.extractLsb' 24 8

/-- byte2 (10_state.md R23). -/
def payloadByte2 (p : BitVec 40) : Byte := p.extractLsb' 16 8

/-- byte3 (10_state.md R23). -/
def payloadByte3 (p : BitVec 40) : Byte := p.extractLsb' 8 8

/-- byte4, the checksum byte (10_state.md R23). -/
def payloadByte4 (p : BitVec 40) : Byte := p.extractLsb' 0 8

/-- The sum of the four payload bytes, reduced modulo 256 (42_protocol_decoder.md R153). -/
def checksum (b0 b1 b2 b3 : Byte) : Byte :=
  BitVec.ofNat 8 (b0.toNat + b1.toNat + b2.toNat + b3.toNat)

/-- The classifier's answers (42_protocol_decoder.md R150). -/
inductive BitClass where
  | bit0
  | bit1
  | invalid
  deriving DecidableEq, Repr

/-- Classify(W) (42_protocol_decoder.md R150). -/
def classify (c : Config) (w : Nat) : BitClass :=
  if c.w0Min ≤ w ∧ w ≤ c.w0Max then .bit0
  else if c.w1Min ≤ w ∧ w ≤ c.w1Max then .bit1
  else .invalid

/-- The wire as a sample sees it: low while DHTDEC pulls it low, else the environment's level (41_line_io.md R125). -/
def wireLevel (r : Regs) (lineIn : Bool) : Bool :=
  if r.lineOe && !r.lineOut then false else lineIn

end Sys2Proof.Machine
end

