-- ==== Sys2Proof/Machine/Flags.lean ====
section
/-! DEFINITION. STATUS, the only flag register (10_state.md R26, R27, R34), its writes at a run's start and exits, and
the host register map (20_memory.md R52). -/

namespace Sys2Proof.Machine

/-- REASON's code (60_exceptions.md R200). -/
def Reason.code : Reason → BitVec 3
  | .none => 0
  | .noResponse => 1
  | .preambleLow => 2
  | .preambleHigh => 3
  | .bitLowPhase => 4
  | .bitHighPhase => 5
  | .invalidBitTiming => 6
  | .checksumMismatch => 7

/-- STATUS as read: `0 ++ REASON ++ 0 ++ OK ++ DONE ++ BUSY` (10_state.md R27). -/
def statusByte (r : Regs) : Byte :=
  0#1 ++ r.reason.code ++ 0#1 ++ BitVec.ofBool r.ok ++ BitVec.ofBool r.done ++ BitVec.ofBool r.busy

/-- STATUS when a FETCH is accepted (42_protocol_decoder.md R143). -/
def statusStart (r : Regs) : Regs :=
  { r with busy := true, done := false, ok := false, reason := .none }

/-- STATUS at a failure exit (60_exceptions.md R208). -/
def statusFailure (reason : Reason) (r : Regs) : Regs :=
  { r with reason := reason, ok := false, done := true, busy := false }

/-- STATUS at the success exit (60_exceptions.md R209). -/
def statusSuccess (r : Regs) : Regs :=
  { r with reason := .none, ok := true, done := true, busy := false }

/-- The read value of the host register at address `a` (20_memory.md R52). -/
def hostRead (a : BitVec 3) (r : Regs) : Byte :=
  match a.toNat with
  | 0 => 0x00#8
  | 1 => statusByte r
  | 2 => r.data0
  | 3 => r.data1
  | 4 => r.data2
  | 5 => r.data3
  | 6 => r.phase.code.setWidth 8
  | _ => r.bitcnt.setWidth 8

end Sys2Proof.Machine
end

