-- ==== Sys2Proof/Machine/Ops.lean ====
section
/-! DEFINITION. The shared operations: sequencing, the cycle's inputs, staging (00_scope.md R13), event records and marks
(10_state.md R37), the micro-operations (40_timer_context.md R100-R104, 41_line_io.md R120-R124), the host port's read
(43_host_interface.md R180), taking an exit (60_exceptions.md R208, R209), the counter (40 R111) and reset (70 R232). -/

namespace Sys2Proof.Machine

/-- The outcomes of this machine. -/
abbrev Res := Host.Outcome State Fault Refusal

/-- Go on with the next state; a stop stays. -/
def andThen (o : Res) (f : State → Res) : Res :=
  match o with
  | .next s => f s
  | .fault r => .fault r
  | .refused r => .refused r

/-! ## The cycle's inputs -/

/-- The inputs of cycle `n` where the state lists none: free line and tick, no transaction, no other agent, no reset
(log entry 6). -/
def freeIn (n : Nat) : CycleIn :=
  { rst := .run, host := none, agentWr := [], line := Config.freeLine n, tick := Config.freeTick n, trace := none }

/-- The inputs of the current cycle. -/
def State.now (s : State) : CycleIn :=
  match s.inputs with
  | [] => freeIn s.cycle
  | i :: _ => i

/-- The level a sample returns in this cycle: LineSample() (00_scope.md R12). -/
def State.lineSample (s : State) : Bool := wireLevel s.cur s.now.line

/-- P_TIMER_RUNNING on the start-of-cycle values (40_timer_context.md R111). -/
def State.timerRunning (s : State) : Bool := s.cfg.running.eval s.cur.tccra s.cur.tccrb

/-- A tick counts only while the timer runs (40 R111, R112). -/
def State.ticks (s : State) : Bool := s.now.tick && s.timerRunning

/-! ## Staging, records and marks -/

/-- Stage register writes: they land at the end of the cycle (00_scope.md R13). -/
def State.stage (s : State) (f : Regs → Regs) : State := { s with nxt := f s.nxt }

/-- TimerWrite(TCNT, v) (00_scope.md R12). -/
def State.stageTcnt (s : State) (v : Nat) : State :=
  { s with nxt := { s.nxt with tcnt := v }, cntWr := true }

/-- `emit U` (30_encoding.md R71). -/
def State.emit (s : State) (u : Uop) : State :=
  { s with history := s.history ++ [Event.uop s.cycle u] }

/-- Record the cycle's host transaction (10_state.md R37). -/
def State.record (s : State) (w : HpwWord) : State :=
  { s with history := s.history ++ [Event.host s.cycle w] }

/-- `raise Refuse(name)`: set the sticky mark REFUSED and change no other state (60_exceptions.md R217). -/
def State.markRefused (s : State) (n : RefuseName) : State :=
  { s with refused := s.refused.or (some n) }

/-! ## The micro-operations on the timer -/

/-- ACQUIRE (40_timer_context.md R100). -/
def opAcquire (s : State) : Res :=
  if s.cur.ctx = .held then .fault .nestedAcquire
  else
    .next ((s.stage fun r =>
      { r with snapA := s.cur.tccra, snapB := s.cur.tccrb, snapM := s.cur.timsk, ctx := .held, regime := .none }).emit
        .acquire)

/-- The common form of CFG_COARSE and CFG_FINE (40 R101, R102): the test is of CTX after the cycle's earlier
micro-operations. -/
def opConfigure (u : Uop) (a b : TReg) (g : Regime) (s : State) : Res :=
  if s.nxt.ctx = .free then .fault .configureWithoutAcquire
  else
    .next (((s.stage fun r => { r with tccra := a, tccrb := b, timsk := s.cfg.imsk, regime := g }).stageTcnt 0).emit u)

/-- CFG_COARSE (40 R101). -/
def opCfgCoarse (s : State) : Res := opConfigure .cfgCoarse s.cfg.coarseA s.cfg.coarseB .coarse s

/-- CFG_FINE (40 R102). -/
def opCfgFine (s : State) : Res := opConfigure .cfgFine s.cfg.fineA s.cfg.fineB .fine s

/-- ELAPSED (40 R103): its result is the start-of-cycle TCNT. -/
def opElapsed (s : State) : State :=
  { s with sig := { s.sig with tickRes := some s.cur.tcnt } }.emit .elapsed

/-- RELEASE (40 R104): the test is of CTX at the start of the cycle (log entry 8). -/
def opRelease (s : State) : Res :=
  if s.cur.ctx = .free then .fault .releaseWithoutAcquire
  else
    .next ((s.stage fun r =>
      { r with tccra := s.cur.snapA, tccrb := s.cur.snapB, timsk := s.cur.snapM, ctx := .free, regime := .none }).emit
        .release)

/-! ## The micro-operations on the line -/

/-- DIR_OUT (41_line_io.md R120). -/
def opDirOut (s : State) : State := (s.stage fun r => { r with lineOe := true }).emit .dirOut

/-- DIR_IN (41 R121). -/
def opDirIn (s : State) : State := (s.stage fun r => { r with lineOe := false }).emit .dirIn

/-- LINE_LOW (41 R122). -/
def opLineLow (s : State) : State := (s.stage fun r => { r with lineOut := false }).emit .lineLow

/-- LINE_HIGH (41 R123). -/
def opLineHigh (s : State) : State := (s.stage fun r => { r with lineOut := true }).emit .lineHigh

/-- LINE_READ (41 R124): its result is the level of the wire in this cycle. -/
def opLineRead (s : State) : State :=
  { s with sig := { s.sig with lineRes := some s.lineSample } }.emit .lineRead

/-! ## The host port -/

/-- A read transaction: the start-of-cycle value on `rdata`, and nothing changes (43_host_interface.md R180). -/
def hostPortRead (a : BitVec 3) (s : State) : State :=
  { s with sig := { s.sig with rdata := some (hostRead a s.cur) } }

/-- A write to a read-only address: ignored (43 R183). -/
def hostPortIgnore (s : State) : State := s

/-! ## Taking an exit -/

/-- `raise Failure(reason)` (60_exceptions.md R208). There is no return from it (R212). -/
def failureExit (reason : Reason) (s : State) : Res :=
  andThen (opRelease s) fun s => .next (s.stage fun r => { statusFailure reason r with phase := .idle })

/-- `Success(b0, b1, b2, b3)` (60 R209). -/
def successExit (b0 b1 b2 b3 : Byte) (s : State) : Res :=
  andThen (opRelease s) fun s =>
    .next (s.stage fun r =>
      { statusSuccess r with data0 := b0, data1 := b1, data2 := b2, data3 := b3, phase := .idle })

/-! ## The cycle's beginning and end -/

/-- Begin a cycle: nothing staged, no result yet. -/
def State.beginCycle (s : State) : State := { s with nxt := s.cur, cntWr := false, sig := .quiet }

/-- TCNT at the end of the cycle (40_timer_context.md R111). -/
def State.tcntNext (s : State) : Nat :=
  if s.cntWr then s.nxt.tcnt
  else if s.ticks then (s.cur.tcnt + 1) % 2 ^ s.cfg.cntW
  else s.cur.tcnt

/-- The next cycle, starting from the registers `r`. -/
def State.advance (s : State) (r : Regs) : State :=
  { s with cur := r, nxt := r, cntWr := false, inputs := s.inputs.tail, cycle := s.cycle + 1 }

/-- End a cycle: the staged writes land (00_scope.md R13, 42_protocol_decoder.md R140). -/
def State.endCycle (s : State) : State := s.advance { s.nxt with tcnt := s.tcntNext }

/-! ## Other agents and reset -/

/-- A write of another agent to the timer (40 R114); TCNT takes P_CNT_W bits (log entry 21). -/
def applyAgentWrite (s : State) : AgentWrite → State
  | .tccra v => s.stage fun r => { r with tccra := v }
  | .tccrb v => s.stage fun r => { r with tccrb := v }
  | .timsk v => s.stage fun r => { r with timsk := v }
  | .tcnt v => s.stageTcnt (v % 2 ^ s.cfg.cntW)

/-- The writes of a cycle, in order. -/
def applyAgentWrites (s : State) (ws : List AgentWrite) : State := ws.foldl applyAgentWrite s

/-- The block's registers at their reset values, the timer's untouched (70_reset_and_hazards.md R230, R232). -/
def Regs.blockReset (c : Config) (r : Regs) : Regs :=
  { Regs.reset c with tccra := r.tccra, tccrb := r.tccrb, timsk := r.timsk, tcnt := r.tcnt }

/-- Reset empties the event history (70 R230); the two marks are never cleared (10_state.md R37; log entry 12). -/
def State.clearHistory (s : State) : State := { s with history := [] }

/-- A cycle with the system reset asserted (70 R230-R233; log entry 12). -/
def systemResetCycle (s : State) : State := s.beginCycle.clearHistory.advance (Regs.reset s.cfg)

/-- A cycle in which DHTDEC alone is reset (70 R230, R232, R233; log entries 12, 13). -/
def blockResetCycle (s : State) : Res :=
  if s.cur.busy then .fault .timerOwnershipViolation
  else
    .next ((applyAgentWrites (s.beginCycle.clearHistory.stage (Regs.blockReset s.cfg)) s.now.agentWr).endCycle)

/-! ## Placing an instruction where the step takes it -/

/-- The input record that makes the cycle run exactly the instruction with table word `w` (log entry 17). -/
def fetchInput (i : CycleIn) (nbits w : Nat) : CycleIn :=
  if nbits ≤ 8 then
    { i with rst := .run, host := none, agentWr := [], trace := some [BitVec.ofNat 4 w] }
  else
    { i with rst := .run, host := some (BitVec.ofNat 12 w), agentWr := [], trace := none }

end Sys2Proof.Machine
end

