-- ==== Sys2Proof/Machine/Decoder.lean ====
section
/-! DEFINITION. The Protocol Decoder's phase rules (spec/42_protocol_decoder.md R140-R153). -/

namespace Sys2Proof.Machine

/-- RunStart (42 R143). -/
def runStart (s : State) : Res :=
  andThen (opAcquire s) fun s =>
  andThen (opCfgCoarse s) fun s =>
  .next ((opLineLow (opDirOut s)).stage fun r =>
    { statusStart r with payload := 0, bitcnt := 0, phase := .requestStart })

/-- PollPhase (42 R141): the line is tested before the bound. -/
def pollPhase (exitLevel : Bool) (bound : Nat) (reason : Reason) (onExit : Nat → State → Res) (s : State) : Res :=
  if s.lineSample = exitLevel then onExit s.cur.tcnt (opElapsed (opLineRead s))
  else if bound < s.cur.tcnt then failureExit reason (opElapsed (opLineRead s))
  else .next (opElapsed (opLineRead s))

/-- `CFG_FINE; PHASE <- p`: the exit of a polled phase into the next one (42 R145-R148). -/
def enterPhase (p : Phase) (s : State) : Res :=
  andThen (opCfgFine s) fun s => .next (s.stage fun r => { r with phase := p })

/-- REQUEST_START (42 R144). -/
def phaseRequestStart (s : State) : Res :=
  if s.cfg.tReq ≤ s.cur.tcnt then enterPhase .waitResponse (opDirIn (opLineHigh (opElapsed s)))
  else .next (opElapsed s)

/-- WAIT_RESPONSE (42 R145). -/
def phaseWaitResponse (s : State) : Res :=
  pollPhase false s.cfg.tResp .noResponse (fun _ => enterPhase .waitPreambleLow) s

/-- WAIT_PREAMBLE_LOW (42 R146). -/
def phaseWaitPreambleLow (s : State) : Res :=
  pollPhase true s.cfg.tPreLow .preambleLow (fun _ => enterPhase .waitPreambleHigh) s

/-- WAIT_PREAMBLE_HIGH (42 R147). -/
def phaseWaitPreambleHigh (s : State) : Res :=
  pollPhase false s.cfg.tPreHigh .preambleHigh (fun _ => enterPhase .bitLow) s

/-- BIT_LOW (42 R148). -/
def phaseBitLow (s : State) : Res :=
  pollPhase true s.cfg.tBitLow .bitLowPhase (fun _ => enterPhase .bitHigh) s

/-- The acceptance of a valid bit (42 R151). -/
def acceptBit (b : Bool) (s : State) : Res :=
  let t := s.stage fun r => { r with payload := shiftIn s.cur.payload b, bitcnt := s.cur.bitcnt + 1 }
  if s.cur.bitcnt + 1 = BitVec.ofNat 6 nBits then .next (t.stage fun r => { r with phase := .verify })
  else enterPhase .bitLow t

/-- BitAccept (42 R151). -/
def bitAccept (c : BitClass) (s : State) : Res :=
  match c with
  | .invalid => failureExit .invalidBitTiming s
  | .bit0 => acceptBit false s
  | .bit1 => acceptBit true s

/-- BIT_HIGH (42 R149): W is the TCNT value read in the first cycle the line is sampled low. -/
def phaseBitHigh (s : State) : Res :=
  pollPhase false s.cfg.tBitHigh .bitHighPhase (fun w => bitAccept (classify s.cfg w)) s

/-- VERIFY (42 R152). -/
def phaseVerify (s : State) : Res :=
  let p := s.cur.payload
  if checksum (payloadByte0 p) (payloadByte1 p) (payloadByte2 p) (payloadByte3 p) = payloadByte4 p then
    successExit (payloadByte0 p) (payloadByte1 p) (payloadByte2 p) (payloadByte3 p) s
  else failureExit .checksumMismatch s

/-- The phase rule of the cycle, chosen by the start-of-cycle PHASE (42 R140). In IDLE the decoder does nothing by itself
(R142): a FETCH runs R143 as the host transaction's own meaning (43_host_interface.md R181). -/
def phaseStep (s : State) : Res :=
  match s.cur.phase with
  | .idle => .next s
  | .requestStart => phaseRequestStart s
  | .waitResponse => phaseWaitResponse s
  | .waitPreambleLow => phaseWaitPreambleLow s
  | .waitPreambleHigh => phaseWaitPreambleHigh s
  | .bitLow => phaseBitLow s
  | .bitHigh => phaseBitHigh s
  | .verify => phaseVerify s

end Sys2Proof.Machine
end

