-- ==== Sys2Proof/Machine/HostPort.lean ====
section
/-! DEFINITION. The meanings of the host transactions (spec/43_host_interface.md R180-R192). -/

namespace Sys2Proof.Machine

/-- WR_CMD_FETCH (43 R181). -/
def execWrCmdFetch (s : State) : Res :=
  if s.cur.phase ≠ .idle then .fault .overlappingFetch else runStart s

/-- WR_CMD_NOP (43 R182). -/
def execWrCmdNop (s : State) : Res := .next s

/-- RESERVED_CMD (43 R184): REFUSED is set and nothing else changes; the machine goes on, as Program 6 of
95_test_vectors.md does (log entry 10). -/
def execReservedCmd (_ : Byte) (s : State) : Res := .next (s.markRefused .reservedCommand)

/-- WR_STATUS (43 R183). -/
def execWrStatus (_ : Byte) (s : State) : Res := .next (hostPortIgnore s)

/-- WR_DATA0 (43 R183). -/
def execWrData0 (_ : Byte) (s : State) : Res := .next (hostPortIgnore s)

/-- WR_DATA1 (43 R183). -/
def execWrData1 (_ : Byte) (s : State) : Res := .next (hostPortIgnore s)

/-- WR_DATA2 (43 R183). -/
def execWrData2 (_ : Byte) (s : State) : Res := .next (hostPortIgnore s)

/-- WR_DATA3 (43 R183). -/
def execWrData3 (_ : Byte) (s : State) : Res := .next (hostPortIgnore s)

/-- WR_PHASE (43 R183). -/
def execWrPhase (_ : Byte) (s : State) : Res := .next (hostPortIgnore s)

/-- WR_BITCNT (43 R183). -/
def execWrBitcnt (_ : Byte) (s : State) : Res := .next (hostPortIgnore s)

/-- RD_CMD (43 R185). -/
def execRdCmd (_ : Byte) (s : State) : Res := .next (hostPortRead 0 s)

/-- RD_STATUS (43 R186). -/
def execRdStatus (_ : Byte) (s : State) : Res := .next (hostPortRead 1 s)

/-- RD_DATA0 (43 R187). -/
def execRdData0 (_ : Byte) (s : State) : Res := .next (hostPortRead 2 s)

/-- RD_DATA1 (43 R188). -/
def execRdData1 (_ : Byte) (s : State) : Res := .next (hostPortRead 3 s)

/-- RD_DATA2 (43 R189). -/
def execRdData2 (_ : Byte) (s : State) : Res := .next (hostPortRead 4 s)

/-- RD_DATA3 (43 R190). -/
def execRdData3 (_ : Byte) (s : State) : Res := .next (hostPortRead 5 s)

/-- RD_PHASE (43 R191). -/
def execRdPhase (_ : Byte) (s : State) : Res := .next (hostPortRead 6 s)

/-- RD_BITCNT (43 R192). -/
def execRdBitcnt (_ : Byte) (s : State) : Res := .next (hostPortRead 7 s)

end Sys2Proof.Machine
end

