-- ==== Sys2Proof/Machine/Line.lean ====
section
/-! DEFINITION. The meanings of the line micro-operations (spec/41_line_io.md R120-R124). -/

namespace Sys2Proof.Machine

/-- DIR_OUT (41 R120). -/
def execDirOut (s : State) : Res := .next (opDirOut s)

/-- DIR_IN (41 R121). -/
def execDirIn (s : State) : Res := .next (opDirIn s)

/-- LINE_LOW (41 R122). -/
def execLineLow (s : State) : Res := .next (opLineLow s)

/-- LINE_HIGH (41 R123). -/
def execLineHigh (s : State) : Res := .next (opLineHigh s)

/-- LINE_READ (41 R124). -/
def execLineRead (s : State) : Res := .next (opLineRead s)

end Sys2Proof.Machine
end

