-- ==== Sys2Proof/Machine/Timer.lean ====
section
/-! DEFINITION. The meanings of the timer micro-operations (spec/40_timer_context.md R100-R104) and of a reserved
micro-operation code (30_encoding.md R76). -/

namespace Sys2Proof.Machine

/-- ACQUIRE (40 R100). -/
def execAcquire (s : State) : Res := opAcquire s

/-- CFG_COARSE (40 R101). -/
def execCfgCoarse (s : State) : Res := opCfgCoarse s

/-- CFG_FINE (40 R102). -/
def execCfgFine (s : State) : Res := opCfgFine s

/-- ELAPSED (40 R103). -/
def execElapsed (s : State) : Res := .next (opElapsed s)

/-- RELEASE (40 R104). -/
def execRelease (s : State) : Res := opRelease s

/-- A reserved code in a trace (30_encoding.md R76): REFUSED is set and nothing else changes (log entry 10). -/
def execReservedUop (_ : UopCode) (s : State) : Res := .next (s.markRefused .reservedUop)

end Sys2Proof.Machine
end

