-- ==== Sys2Proof/Machine/Dispatch.lean ====
section
/-! DEFINITION. One arm per instruction. -/

namespace Sys2Proof.Machine

/-- The meaning of an instruction, within a cycle that has begun. -/
def exec (i : Instr) (s : State) : Host.Outcome State Fault Refusal :=
  match i with
  | .wrCmdFetch => Sys2Proof.Machine.execWrCmdFetch s
  | .wrCmdNop => Sys2Proof.Machine.execWrCmdNop s
  | .reservedCmd d => Sys2Proof.Machine.execReservedCmd d s
  | .wrStatus d => Sys2Proof.Machine.execWrStatus d s
  | .wrData0 d => Sys2Proof.Machine.execWrData0 d s
  | .wrData1 d => Sys2Proof.Machine.execWrData1 d s
  | .wrData2 d => Sys2Proof.Machine.execWrData2 d s
  | .wrData3 d => Sys2Proof.Machine.execWrData3 d s
  | .wrPhase d => Sys2Proof.Machine.execWrPhase d s
  | .wrBitcnt d => Sys2Proof.Machine.execWrBitcnt d s
  | .rdCmd d => Sys2Proof.Machine.execRdCmd d s
  | .rdStatus d => Sys2Proof.Machine.execRdStatus d s
  | .rdData0 d => Sys2Proof.Machine.execRdData0 d s
  | .rdData1 d => Sys2Proof.Machine.execRdData1 d s
  | .rdData2 d => Sys2Proof.Machine.execRdData2 d s
  | .rdData3 d => Sys2Proof.Machine.execRdData3 d s
  | .rdPhase d => Sys2Proof.Machine.execRdPhase d s
  | .rdBitcnt d => Sys2Proof.Machine.execRdBitcnt d s
  | .acquire => Sys2Proof.Machine.execAcquire s
  | .cfgCoarse => Sys2Proof.Machine.execCfgCoarse s
  | .cfgFine => Sys2Proof.Machine.execCfgFine s
  | .elapsed => Sys2Proof.Machine.execElapsed s
  | .release => Sys2Proof.Machine.execRelease s
  | .dirOut => Sys2Proof.Machine.execDirOut s
  | .dirIn => Sys2Proof.Machine.execDirIn s
  | .lineLow => Sys2Proof.Machine.execLineLow s
  | .lineHigh => Sys2Proof.Machine.execLineHigh s
  | .lineRead => Sys2Proof.Machine.execLineRead s
  | .reservedUop u => Sys2Proof.Machine.execReservedUop u s

end Sys2Proof.Machine
end

