-- ==== Sys2Proof/Machine/Cycle.lean ====
section
/-! DEFINITION. One clock cycle (spec/00_scope.md R13, 42_protocol_decoder.md R140): the other agents' timer writes, the
host transaction, the phase rule, the counter and the landing of the staged writes; and the reset cycles
(70_reset_and_hazards.md R232, R233). -/

namespace Sys2Proof.Machine

/-- The cycle's host transaction is a FETCH. -/
def State.hostFetches (s : State) : Bool :=
  match s.now.host with
  | none => false
  | some w => decide (decodeHpw w = .wrCmdFetch)

/-- DHTDEC owns the timer in this cycle (20_memory.md R60): PHASE is not IDLE at its start, or it accepts a FETCH. -/
def State.owns (s : State) : Bool := decide (s.cur.phase ≠ .idle) || s.hostFetches

/-- The other agents' writes to the timer: free outside the ownership window, a fault inside it (20 R60, 40 R114). -/
def agentWrites (s : State) : Res :=
  if s.now.agentWr = [] then .next s
  else if s.owns then .fault .timerOwnershipViolation
  else .next (applyAgentWrites s s.now.agentWr)

/-- The host transaction of the cycle, if any (43_host_interface.md R180). -/
def hostPort (s : State) : Res :=
  match s.now.host with
  | none => .next s
  | some w => exec (decodeHpw w) (s.record w)

/-- Micro-operations given by their codes, in order (30_encoding.md R71; log entry 7). -/
def runUops : List UopCode → State → Res
  | [], s => .next s
  | u :: us, s => andThen (exec (decodeUop u) s) (runUops us)

/-- The decoder's part of the cycle: its phase rule, or the micro-operations of a trace under check (log entry 7). -/
def decoderPart (s : State) : Res :=
  match s.now.trace with
  | none => phaseStep s
  | some us => runUops us s

/-- A cycle without reset (42_protocol_decoder.md R140). -/
def runCycle (s : State) : Res :=
  andThen (agentWrites s.beginCycle) fun s =>
  andThen (hostPort s) fun s =>
  andThen (decoderPart s) fun s =>
  .next s.endCycle

/-- One cycle. A faulted machine takes no step (60_exceptions.md R216); illegal parameters refuse every step
(00_scope.md R8). -/
def cycleStep (s : State) : Res :=
  match s.faulted with
  | some f => .fault f
  | none =>
    if s.cfg.legal then
      match s.now.rst with
      | .run => runCycle s
      | .system => .next (systemResetCycle s)
      | .block => blockResetCycle s
    else .refused .illegalParameters

end Sys2Proof.Machine
end

