-- ==== Sys2Proof/Machine/Step.lean ====
section
/-! DEFINITION. The step: one clock cycle; and the placing of an instruction as the cycle's input (log entry 17). -/

namespace Sys2Proof.Machine

/-- One step is one clock cycle (spec/00_scope.md R13). -/
def step (s : State) : Host.Outcome State Fault Refusal := cycleStep s

/-- `s` with the instruction of table word `w` as the current cycle's host transaction (format HPW) or as its only
micro-operation (format UOP). -/
def State.withFetchWord (s : State) (nbits w : Nat) : State :=
  { s with inputs := fetchInput s.now nbits w :: s.inputs.tail }

end Sys2Proof.Machine
end

