-- ==== Sys2Proof/Safety.lean ====
section
/-! DEFINITION. What counts as a safe run: the invariants of spec/10_state.md R35 and what they rest on, the model's marks
as R37 keeps them, the host's duties (43_host_interface.md R193), runs (70_reset_and_hazards.md R236, R237) and the ticks a
run can still take (42_protocol_decoder.md R156). -/

namespace Sys2Proof.Machine

/-! ## The invariants -/

/-- The five polled phases (42_protocol_decoder.md R158). -/
def Phase.polled : Phase → Bool
  | .waitResponse => true
  | .waitPreambleLow => true
  | .waitPreambleHigh => true
  | .bitLow => true
  | .bitHigh => true
  | .idle => false
  | .requestStart => false
  | .verify => false

/-- WAIT_RESPONSE .. VERIFY (10_state.md R35, I3). -/
def Phase.released : Phase → Bool
  | .verify => true
  | p => p.polled

/-- REQUEST_START and the three handshake phases: no bit has been received yet. -/
def Phase.beforeBits : Phase → Bool
  | .requestStart => true
  | .waitResponse => true
  | .waitPreambleLow => true
  | .waitPreambleHigh => true
  | .idle => false
  | .bitLow => false
  | .bitHigh => false
  | .verify => false

/-- The bound of a polled phase (42 R145-R149). -/
def Phase.bound (c : Config) : Phase → Nat
  | .waitResponse => c.tResp
  | .waitPreambleLow => c.tPreLow
  | .waitPreambleHigh => c.tPreHigh
  | .bitLow => c.tBitLow
  | .bitHigh => c.tBitHigh
  | .idle => 0
  | .requestStart => 0
  | .verify => 0

/-- The level of the line that ends a polled phase (42 R145-R149). -/
def Phase.exitLevel : Phase → Bool
  | .waitPreambleLow => true
  | .bitLow => true
  | .waitResponse => false
  | .waitPreambleHigh => false
  | .bitHigh => false
  | .idle => false
  | .requestStart => false
  | .verify => false

/-- The failure of a polled phase whose bound is exceeded (60_exceptions.md R200). -/
def Phase.timeout : Phase → Reason
  | .waitResponse => .noResponse
  | .waitPreambleLow => .preambleLow
  | .waitPreambleHigh => .preambleHigh
  | .bitLow => .bitLowPhase
  | .bitHigh => .bitHighPhase
  | .idle => .none
  | .requestStart => .none
  | .verify => .none

/-- Invariants I1-I7 of 10_state.md R35, on the registers at the end of a cycle. -/
structure SpecInv (r : Regs) : Prop where
  /-- I1 -/
  busy_iff : r.busy = true ↔ r.phase ≠ .idle
  /-- I1 -/
  held_iff : r.ctx = .held ↔ r.phase ≠ .idle
  /-- I2 -/
  request : r.phase = .requestStart → r.regime = .coarse ∧ r.lineOe = true ∧ r.lineOut = false
  /-- I3 -/
  released : r.phase.released = true → r.regime = .fine ∧ r.lineOe = false
  /-- I4 -/
  idle : r.phase = .idle → r.regime = .none ∧ r.lineOe = false
  /-- I5 -/
  bitcnt_le : r.bitcnt.toNat ≤ 40
  /-- I5 -/
  bitcnt_verify : r.phase = .verify → r.bitcnt.toNat = 40
  /-- I5 -/
  bitcnt_lt : r.phase = .bitLow ∨ r.phase = .bitHigh → r.bitcnt.toNat < 40
  /-- I6 -/
  done_idle : r.done = true → r.busy = false
  /-- I7 -/
  ok_clean : r.ok = true → r.reason = .none ∧ r.done = true

/-- I1-I7 with what keeps them from cycle to cycle: no bits before the bit phases (60 R201-R203), the latch high but in
the request (41_line_io.md R128), REASON as 10_state.md R26 says, the borrowed timer configuration (40 R101, R102), and
the counter within one tick of the phase's bound (42 R156). -/
structure RunInv (c : Config) (r : Regs) : Prop where
  spec : SpecInv r
  no_bits : r.phase.beforeBits = true → r.bitcnt = 0
  latch_high : r.phase ≠ .requestStart → r.lineOut = true
  reason_unset : r.done = false → r.reason = .none
  reason_set : r.done = true → r.ok = false → r.reason ≠ .none
  cnt_width : r.tcnt < 2 ^ c.cntW
  coarse : r.phase = .requestStart →
    r.tccra = c.coarseA ∧ r.tccrb = c.coarseB ∧ r.timsk = c.imsk ∧ r.tcnt ≤ c.tReq
  fine : r.phase.released = true → r.tccra = c.fineA ∧ r.tccrb = c.fineB ∧ r.timsk = c.imsk
  cnt_bound : r.phase.polled = true → r.tcnt ≤ r.phase.bound c + 1

/-- The invariant of the state between two cycles: `RunInv`, and nothing is staged. -/
structure Inv (s : State) : Prop where
  regs : RunInv s.cfg s.cur
  settled : s.nxt = s.cur
  no_write : s.cntWr = false

/-! ## The marks of R37 -/

/-- The state as the model's bookkeeping sees it after one more step: a step that faults sets FAULTED with the fault's name
and leaves the rest, a refused one sets REFUSED (10_state.md R37, 60_exceptions.md R216, R217; log entry 9). -/
def State.marked (s : State) : State :=
  match step s with
  | .next t => t
  | .fault f => { s with faulted := some f }
  | .refused _ => s.markRefused .illegalParameters

/-! ## The host's duties and ordinary cycles -/

/-- D-H1 (43_host_interface.md R193): no FETCH while BUSY = 1. -/
def State.dutyFetch (s : State) : Prop := s.hostFetches = true → s.cur.busy = false

/-- D-H2 (43 R193): no write to the timer while DHTDEC owns it. -/
def State.dutyTimer (s : State) : Prop := s.owns = true → s.now.agentWr = []

/-- D-H5 (43 R193): no reserved CMD value. -/
def State.dutyCommand (s : State) : Prop := ∀ w d, s.now.host = some w → decodeHpw w ≠ .reservedCmd d

/-- A cycle in which the decoder runs by its own rules: no reset, and no trace in place of the phase rule. -/
def CycleIn.ordinary (i : CycleIn) : Prop := i.rst = .run ∧ i.trace = none

/-- An ordinary cycle in which no other agent writes the timer and the host does not fetch. -/
def CycleIn.quiet (i : CycleIn) : Prop := i.ordinary ∧ i.agentWr = [] ∧ i.host ≠ some 0x801#12

/-- The machine can step: not faulted, with legal parameters (70_reset_and_hazards.md R236). -/
def State.live (s : State) : Prop := s.faulted = none ∧ s.cfg.legal = true

/-- A live machine in an ordinary cycle in which no other agent writes the timer and the host does not fetch: the cycle's
registers come from the phase rule and the tick alone. -/
structure State.decoderCycle (s : State) : Prop where
  live : s.live
  ordinary : s.now.ordinary
  alone : s.now.agentWr = []
  no_fetch : s.hostFetches = false

/-- A live machine in a cycle whose only micro-operation is the one with code `u`, given by a trace (log entry 7). -/
structure State.traceCycle (s : State) (u : UopCode) : Prop where
  live : s.live
  run : s.now.rst = .run
  alone : s.now.agentWr = []
  silent : s.now.host = none
  uop : s.now.trace = some [u]

/-! ## Runs -/

/-- `u` is the state at the end of the run (70 R237) that the FETCH of the cycle `s` starts; the run's last cycle is the
`k`-th after it. All the cycles listed are ordinary ones. -/
structure IsRun (s : State) (k : Nat) (u : State) : Prop where
  ordinary : ∀ i ∈ s.inputs, i.ordinary
  entry : s.cur.phase = .idle
  fetch : s.hostFetches = true
  ends : Host.Core.run Sys2Proof.core (k + 1) s = .next u
  idle : u.cur.phase = .idle
  busy : ∀ j, 1 ≤ j → j ≤ k → ∀ x, Host.Core.run Sys2Proof.core j s = .next x → x.cur.phase ≠ .idle

/-- The clean-entry premise for a claim about one run (70 R236), at the cycle that accepts the FETCH. The timer registers, DATA and
the previous STATUS may hold any value. -/
structure State.cleanEntry (s : State) : Prop where
  phase : s.cur.phase = .idle
  busy : s.cur.busy = false
  ctx : s.cur.ctx = .free
  faulted : s.faulted = none
  refused : s.refused = none
  legal : s.cfg.legal = true

/-- A run (70 R237) that meets the premise of 70 R236: a clean entry, and D-H1 and D-H2 kept in every one of its cycles. -/
structure IsCleanRun (s : State) (k : Nat) (u : State) : Prop where
  run : IsRun s k u
  entry : s.cleanEntry
  duties : ∀ j, j ≤ k → ∀ x, Host.Core.run Sys2Proof.core j s = .next x → State.dutyFetch x ∧ State.dutyTimer x

/-- The cycle's ordinary tick (40_timer_context.md R111): what TCNT becomes where nothing writes it. -/
def State.counted (s : State) : Nat :=
  if s.ticks then (s.cur.tcnt + 1) % 2 ^ s.cfg.cntW else s.cur.tcnt

/-- The registers after a failure exit in the cycle `s` (60_exceptions.md R208): the timer configuration from the snapshot,
the context free, STATUS, PHASE; TCNT counts on; everything else stays. -/
def afterFailure (s : State) (reason : Reason) : Regs :=
  { s.cur with
    tccra := s.cur.snapA, tccrb := s.cur.snapB, timsk := s.cur.snapM, ctx := .free, regime := .none
    reason := reason, ok := false, done := true, busy := false, phase := .idle, tcnt := s.counted }

/-- The registers after CFG_FINE and the entry of phase `p` in the cycle `s` (40_timer_context.md R102, R115), from the
registers `r` of the cycle's other writes. -/
def afterFine (s : State) (p : Phase) (r : Regs) : Regs :=
  { r with
    tccra := s.cfg.fineA, tccrb := s.cfg.fineB, timsk := s.cfg.imsk, regime := .fine, tcnt := 0, phase := p }

/-- The phases that may follow a phase in the next cycle (42_protocol_decoder.md R155). -/
def phaseSuccessors : Phase → List Phase
  | .idle => [.idle, .requestStart]
  | .requestStart => [.requestStart, .waitResponse]
  | .waitResponse => [.waitResponse, .waitPreambleLow, .idle]
  | .waitPreambleLow => [.waitPreambleLow, .waitPreambleHigh, .idle]
  | .waitPreambleHigh => [.waitPreambleHigh, .bitLow, .idle]
  | .bitLow => [.bitLow, .bitHigh, .idle]
  | .bitHigh => [.bitHigh, .bitLow, .verify, .idle]
  | .verify => [.idle]

/-- The value of the last write to TCNT among the other agents' writes of a cycle. -/
def lastTcntWrite : List AgentWrite → Option Nat
  | [] => none
  | .tcnt v :: ws => (lastTcntWrite ws).or (some v)
  | .tccra _ :: ws => lastTcntWrite ws
  | .tccrb _ :: ws => lastTcntWrite ws
  | .timsk _ :: ws => lastTcntWrite ws

/-- The record of the cycle's host transaction (10_state.md R37). -/
def State.hostRecord (s : State) : List Event :=
  match s.now.host with
  | none => []
  | some w => [.host s.cycle w]

/-- The record is of the micro-operation `u`. -/
def Event.isUop (u : Uop) : Event → Bool
  | .uop _ v => decide (v = u)
  | .host _ _ => false

/-! ## The ticks a run can still take -/

/-- The cycles with a tick that one bit slot can take. -/
def slotTicks (c : Config) : Nat := (c.tBitLow + 2) + (c.tBitHigh + 2)

/-- The cycles with a tick that the phases after REQUEST_START and before the bits can take. -/
def bitsTicks (c : Config) : Nat := 40 * slotTicks c + 1

/-- The cycles with a tick that a run in registers `r` can still take: the rest of the current phase's epoch and one for
each later phase's exit cycle (42_protocol_decoder.md R156). -/
def ticksLeft (c : Config) (r : Regs) : Nat :=
  match r.phase with
  | .idle => 0
  | .requestStart =>
    (c.tReq + 1 - r.tcnt) + (c.tResp + 2) + (c.tPreLow + 2) + (c.tPreHigh + 2) + bitsTicks c
  | .waitResponse => (c.tResp + 2 - r.tcnt) + (c.tPreLow + 2) + (c.tPreHigh + 2) + bitsTicks c
  | .waitPreambleLow => (c.tPreLow + 2 - r.tcnt) + (c.tPreHigh + 2) + bitsTicks c
  | .waitPreambleHigh => (c.tPreHigh + 2 - r.tcnt) + bitsTicks c
  | .bitLow =>
    (c.tBitLow + 2 - r.tcnt) + (c.tBitHigh + 2) + (39 - r.bitcnt.toNat) * slotTicks c + 1
  | .bitHigh => (c.tBitHigh + 2 - r.tcnt) + (39 - r.bitcnt.toNat) * slotTicks c + 1
  | .verify => 1

end Sys2Proof.Machine
end

