-- ==== Sys2Proof/Certificates/Slice0/Obligations.lean ====
section
/-! DEFINITION. The statements for the provers. Each docstring names the rule of spec/ it formalises, or says that it rests on
a choice of the model and names the log entry. -/

open Sys2Proof Sys2Proof.Machine

/-! ## Encoding -/

/-- Words written out from the maps of 30_encoding.md R73 and R75 decode to the instruction they stand for. -/
def Obligations.WrittenOutWordsDecode : Prop :=
  decode (.hpw 0b100000000001#12) = .wrCmdFetch ∧
  decode (.hpw 0b100000000000#12) = .wrCmdNop ∧
  decode (.hpw 0b100011111111#12) = .reservedCmd 0xFF#8 ∧
  decode (.hpw 0b101001010101#12) = .wrData0 0x55#8 ∧
  decode (.hpw 0b000110101011#12) = .rdStatus 0xAB#8 ∧
  decode (.hpw 0b011100000000#12) = .rdBitcnt 0x00#8 ∧
  decode (.uop 0b0001#4) = .acquire ∧
  decode (.uop 0b0101#4) = .release ∧
  decode (.uop 0b1010#4) = .lineRead ∧
  decode (.uop 0b1011#4) = .reservedUop 0xB#4

/-- Decoding the container bytes of an encoded well-formed instruction, whatever bytes follow them, gives it back with every
operand, and the bytes that follow (30_encoding.md R70-R75; the containers are the model's, log entry 16). -/
def Obligations.DecodeOfEncodeGivesItBack : Prop :=
  ∀ (i : Instr) (rest : List Byte), i.wellFormed = true →
    decodeBytes (encode i).format ((encode i).bytes ++ rest) = .ok (i, rest)

/-- Every word of either format is the encoding of the instruction it decodes to, which is well formed: no two words mean the
same instruction and none is without one (30_encoding.md R73, R75, R77). -/
def Obligations.EncodeOfDecodeGivesTheWord : Prop :=
  ∀ e : EncWord, encode (decode e) = e ∧ (decode e).wellFormed = true

/-- 30_encoding.md R77, with what each class does: a word with WE = 0 puts the register at ADDR on rdata whatever WDATA
holds, a write to another address than 0 changes nothing, and a write to CMD is NOP, FETCH or reserved by its value. -/
def Obligations.HostWordsFallIntoClasses : Prop :=
  ∀ (w : HpwWord) (s : State),
    (w.getLsbD 11 = false →
      exec (decodeHpw w) s =
        .next { s with sig := { s.sig with rdata := some (hostRead (w.extractLsb' 8 3) s.cur) } }) ∧
    (w.getLsbD 11 = true → w.extractLsb' 8 3 ≠ 0#3 → exec (decodeHpw w) s = .next s) ∧
    (w.getLsbD 11 = true → w.extractLsb' 8 3 = 0#3 →
      decodeHpw w =
        (if w.extractLsb' 0 8 = 0x00#8 then .wrCmdNop
         else if w.extractLsb' 0 8 = 0x01#8 then .wrCmdFetch
         else .reservedCmd (w.extractLsb' 0 8)))

/-- Bytes that are no container of a word are refused by name: a short list, and a pad bit that is 1 (the model's own
convention, log entry 16). -/
def Obligations.BadContainersAreRejected : Prop :=
  ∀ (lo hi : Byte) (rest : List Byte),
    decodeBytes .hpw [] = .error (.tooShort .hpw) ∧
    decodeBytes .hpw [lo] = .error (.tooShort .hpw) ∧
    decodeBytes .uop [] = .error (.tooShort .uop) ∧
    (16 ≤ hi.toNat → decodeBytes .hpw (lo :: hi :: rest) = .error (.padNotZero .hpw)) ∧
    (16 ≤ hi.toNat → decodeBytes .uop (hi :: rest) = .error (.padNotZero .uop))

/-- The codes of PHASE (10_state.md R21) and of REASON (60_exceptions.md R200). -/
def Obligations.PhaseAndReasonCodes : Prop :=
  [Phase.idle, .requestStart, .waitResponse, .waitPreambleLow, .waitPreambleHigh, .bitLow, .bitHigh, .verify].map
      Phase.code = [0#3, 1#3, 2#3, 3#3, 4#3, 5#3, 6#3, 7#3] ∧
  [Reason.none, .noResponse, .preambleLow, .preambleHigh, .bitLowPhase, .bitHighPhase, .invalidBitTiming,
    .checksumMismatch].map Reason.code = [0#3, 1#3, 2#3, 3#3, 4#3, 5#3, 6#3, 7#3]

/-- The words of every assembler line with a register name, the rejection of a literal above 255 (30_encoding.md R78), and the
words of the five pseudo-instructions (R79): FETCHDATA is 0x801, n times 0x100, 0x200, 0x300, 0x400, 0x500. -/
def Obligations.AssemblerWords : Prop :=
  ([HostReg.cmd, .status, .data0, .data1, .data2, .data3, .phase, .bitcnt].map fun r => assemble (.rd r)) =
    [some 0x000#12, some 0x100#12, some 0x200#12, some 0x300#12, some 0x400#12, some 0x500#12, some 0x600#12,
      some 0x700#12] ∧
  (∀ imm, imm ≤ 255 →
    ([HostReg.cmd, .status, .data0, .data1, .data2, .data3, .phase, .bitcnt].map fun r => assemble (.wr r imm)) =
      [0x800, 0x900, 0xA00, 0xB00, 0xC00, 0xD00, 0xE00, 0xF00].map fun w => some (BitVec.ofNat 12 (w + imm))) ∧
  (∀ r imm, 255 < imm → assemble (.wr r imm) = none) ∧
  Pseudo.fetch.words = [0x801#12] ∧
  Pseudo.nop.words = [0x800#12] ∧
  Pseudo.readData.words = [0x200#12, 0x300#12, 0x400#12, 0x500#12] ∧
  (∀ n, (Pseudo.waitDone n).words = List.replicate n 0x100#12) ∧
  (∀ n, (Pseudo.fetchData n).words =
    0x801#12 :: (List.replicate n 0x100#12 ++ [0x200#12, 0x300#12, 0x400#12, 0x500#12]))

/-! ## The step -/

/-- A step runs the host transaction of its cycle: it is exec of the decoded word, on the state that begins the cycle with the
transaction recorded, then the phase rule, then the end of the cycle (42_protocol_decoder.md R140). -/
def Obligations.StepRunsTheHostTransaction : Prop :=
  ∀ (s : State) (w : HpwWord),
    s.live → s.now.ordinary → s.now.agentWr = [] → s.now.host = some w →
    step s =
      andThen (exec (decode (.hpw w)) (s.beginCycle.record w)) fun a =>
      andThen (phaseStep a) fun b => .next b.endCycle

/-- A step whose micro-operation is given by a trace is exec of the decoded code between the cycle's beginning and its end (the
model's trace port, log entry 7). -/
def Obligations.StepRunsTheTracedUop : Prop :=
  ∀ (s : State) (u : UopCode), s.traceCycle u →
    step s = andThen (exec (decode (.uop u)) s.beginCycle) fun a => .next a.endCycle

/-- `withFetchWord` places an instruction where the next step takes it: that step runs the instruction the table word decodes
to (log entry 17). -/
def Obligations.StepRunsThePlacedWord : Prop :=
  ∀ (s : State) (w : Nat) (i : Instr), s.live →
    (decodeTableWord 16 w = some i →
      step (s.withFetchWord 16 w) =
        andThen (exec i ((s.withFetchWord 16 w).beginCycle.record (BitVec.ofNat 12 w))) fun a =>
        andThen (phaseStep a) fun b => .next b.endCycle) ∧
    (decodeTableWord 8 w = some i →
      step (s.withFetchWord 8 w) = andThen (exec i (s.withFetchWord 8 w).beginCycle) fun a => .next a.endCycle)

/-! ## Host transactions -/

/-- Each read's words, whatever WDATA holds, and its effect in every phase: the start-of-cycle value of its register on rdata,
and nothing else changes (43_host_interface.md R185-R192, 10_state.md R27, R32). -/
def Obligations.ReadsPutTheRegisterOnRdata : Prop :=
  ∀ (d : Byte) (s : State),
    let put (v : Byte) : State := { s with sig := { s.sig with rdata := some v } }
    (decodeHpw (0x0#4 ++ d) = .rdCmd d ∧ decodeHpw (0x1#4 ++ d) = .rdStatus d ∧ decodeHpw (0x2#4 ++ d) = .rdData0 d ∧
      decodeHpw (0x3#4 ++ d) = .rdData1 d ∧ decodeHpw (0x4#4 ++ d) = .rdData2 d ∧ decodeHpw (0x5#4 ++ d) = .rdData3 d ∧
      decodeHpw (0x6#4 ++ d) = .rdPhase d ∧ decodeHpw (0x7#4 ++ d) = .rdBitcnt d) ∧
    exec (.rdCmd d) s = .next (put 0x00#8) ∧
    exec (.rdStatus d) s =
      .next (put (0#1 ++ s.cur.reason.code ++ 0#1 ++ BitVec.ofBool s.cur.ok ++ BitVec.ofBool s.cur.done ++
        BitVec.ofBool s.cur.busy)) ∧
    exec (.rdData0 d) s = .next (put s.cur.data0) ∧
    exec (.rdData1 d) s = .next (put s.cur.data1) ∧
    exec (.rdData2 d) s = .next (put s.cur.data2) ∧
    exec (.rdData3 d) s = .next (put s.cur.data3) ∧
    exec (.rdPhase d) s = .next (put (s.cur.phase.code.setWidth 8)) ∧
    exec (.rdBitcnt d) s = .next (put (s.cur.bitcnt.setWidth 8))

/-- NOP (0x800) and the writes to the read-only addresses (0x900-0xFFF) change nothing, in every phase
(43_host_interface.md R182, R183). -/
def Obligations.NopAndReadOnlyWritesChangeNothing : Prop :=
  ∀ (d : Byte) (s : State),
    exec (decodeHpw 0x800#12) s = .next s ∧
    (∀ w : HpwWord, 0x900 ≤ w.toNat → exec (decodeHpw w) s = .next s) ∧
    exec .wrCmdNop s = .next s ∧
    exec (.wrStatus d) s = .next s ∧
    exec (.wrData0 d) s = .next s ∧
    exec (.wrData1 d) s = .next s ∧
    exec (.wrData2 d) s = .next s ∧
    exec (.wrData3 d) s = .next s ∧
    exec (.wrPhase d) s = .next s ∧
    exec (.wrBitcnt d) s = .next s

/-- A reserved command and a reserved micro-operation code set the sticky mark REFUSED (the first name stays) and change no other
state (60_exceptions.md R217, 43 R184, 30 R76; that the machine goes on is Program 6 of 95, log entry 10). -/
def Obligations.ReservedCodesSetRefusedOnly : Prop :=
  ∀ (d : Byte) (u : UopCode) (s : State),
    exec (.reservedCmd d) s = .next { s with refused := some (s.refused.getD .reservedCommand) } ∧
    exec (.reservedUop u) s = .next { s with refused := some (s.refused.getD .reservedUop) }

/-- FETCH in another phase than IDLE raises OverlappingFetch (43_host_interface.md R181). -/
def Obligations.FetchDuringARunFaults : Prop :=
  ∀ s : State, s.cur.phase ≠ .idle → exec .wrCmdFetch s = .fault .overlappingFetch

/-- FETCH accepted in IDLE (42_protocol_decoder.md R143): the snapshot, the coarse configuration, the line driven low, PAYLOAD
and BITCNT cleared, STATUS, PHASE and the four micro-operations in order; nothing else is staged. -/
def Obligations.FetchStartsARun : Prop :=
  ∀ s : State, s.cur.phase = .idle → s.cur.ctx = .free →
    exec .wrCmdFetch s =
      .next { s with
        nxt := { s.nxt with
          snapA := s.cur.tccra, snapB := s.cur.tccrb, snapM := s.cur.timsk, ctx := .held, regime := .coarse
          tccra := s.cfg.coarseA, tccrb := s.cfg.coarseB, timsk := s.cfg.imsk, tcnt := 0
          lineOe := true, lineOut := false, payload := 0, bitcnt := 0
          busy := true, done := false, ok := false, reason := .none, phase := .requestStart }
        cntWr := true
        history := s.history ++ [.uop s.cycle .acquire, .uop s.cycle .cfgCoarse, .uop s.cycle .dirOut,
          .uop s.cycle .lineLow] }

/-- An accepted FETCH (42_protocol_decoder.md R143) as it lands: the four micro-operations in order, and the registers in the next
cycle, with the snapshot of the host's timer configuration; DATA0-DATA3 are as before, and STATUS reads 0x01. The form of the
records, the transaction's first, is the model's (log entry 19). -/
def Obligations.FetchCycleLands : Prop :=
  ∀ s : State, s.live → s.now.ordinary → s.now.agentWr = [] → s.now.host = some 0x801#12 →
    s.cur.phase = .idle → s.cur.ctx = .free →
    ∃ t, step s = .next t ∧ statusByte t.cur = 0x01#8 ∧
      t.history = s.history ++ [.host s.cycle 0x801#12, .uop s.cycle .acquire, .uop s.cycle .cfgCoarse,
        .uop s.cycle .dirOut, .uop s.cycle .lineLow] ∧
      t.cur = { s.cur with
        snapA := s.cur.tccra, snapB := s.cur.tccrb, snapM := s.cur.timsk, ctx := .held, regime := .coarse
        tccra := s.cfg.coarseA, tccrb := s.cfg.coarseB, timsk := s.cfg.imsk, tcnt := 0
        lineOe := true, lineOut := false, payload := 0, bitcnt := 0
        busy := true, done := false, ok := false, reason := .none, phase := .requestStart }

/-- A cycle with a host word that is no FETCH gives the same registers as the cycle without a transaction: only rdata, the record
in the history and (for a reserved command) REFUSED differ. For the words the spec defines this is 43_host_interface.md R180, R182,
R183 and R185-R192; for a reserved command that the cycle goes on is the model's reading (log entry 10), in a reset cycle that the
transaction has no effect is 70 R233 with log entries 12 and 13, a cycle with a trace is the model's own (log entry 7), and so is
the records' form (log entry 19). -/
def Obligations.TransactionsDoNotDisturbARun : Prop :=
  ∀ (s : State) (i : CycleIn) (is : List CycleIn) (w : HpwWord) (t : State),
    s.inputs = i :: is → i.host = none → w ≠ 0x801#12 → step s = .next t →
    ∃ u, step { s with inputs := { i with host := some w } :: is } = .next u ∧
      u.cur = t.cur ∧ u.nxt = t.nxt ∧ u.cfg = t.cfg ∧ u.inputs = t.inputs ∧ u.cycle = t.cycle ∧
      ((∀ d, decodeHpw w ≠ .reservedCmd d) → u.refused = t.refused) ∧
      (i.rst = .run → ∃ l, t.history = s.history ++ l ∧ u.history = s.history ++ .host s.cycle w :: l)

/-! ## Timer micro-operations -/

/-- ACQUIRE (UOP 0x1, 40_timer_context.md R100): the snapshot of the start-of-cycle timer registers, CTX and REGIME; with CTX = HELD at
the start of the cycle, NestedAcquire. -/
def Obligations.AcquireSnapshotsTheTimer : Prop :=
  ∀ s : State,
    decodeUop 0x1#4 = .acquire ∧
    (s.cur.ctx = .free →
      exec .acquire s =
        .next { s with
          nxt := { s.nxt with
            snapA := s.cur.tccra, snapB := s.cur.tccrb, snapM := s.cur.timsk, ctx := .held, regime := .none }
          history := s.history ++ [.uop s.cycle .acquire] }) ∧
    (s.cur.ctx = .held → exec .acquire s = .fault .nestedAcquire)

/-- CFG_COARSE and CFG_FINE (40 R101, R102): the parameter values, the counter's reset, REGIME; with CTX = FREE after the cycle's
earlier micro-operations, ConfigureWithoutAcquire. -/
def Obligations.ConfigureBorrowsTheTimer : Prop :=
  ∀ s : State,
    (s.nxt.ctx = .held →
      exec .cfgCoarse s =
        .next { s with
          nxt := { s.nxt with
            tccra := s.cfg.coarseA, tccrb := s.cfg.coarseB, timsk := s.cfg.imsk, tcnt := 0, regime := .coarse }
          cntWr := true
          history := s.history ++ [.uop s.cycle .cfgCoarse] } ∧
      exec .cfgFine s =
        .next { s with
          nxt := { s.nxt with
            tccra := s.cfg.fineA, tccrb := s.cfg.fineB, timsk := s.cfg.imsk, tcnt := 0, regime := .fine }
          cntWr := true
          history := s.history ++ [.uop s.cycle .cfgFine] }) ∧
    (s.nxt.ctx = .free →
      exec .cfgCoarse s = .fault .configureWithoutAcquire ∧ exec .cfgFine s = .fault .configureWithoutAcquire)

/-- ELAPSED (40 R103): its result is the start-of-cycle TCNT, and nothing but the record changes. -/
def Obligations.ElapsedReturnsTheCounter : Prop :=
  ∀ s : State,
    exec .elapsed s =
      .next { s with
        sig := { s.sig with tickRes := some s.cur.tcnt }
        history := s.history ++ [.uop s.cycle .elapsed] }

/-- RELEASE (UOP 0x5, 40 R104): the three registers from the snapshot, the context free, TCNT not written; with CTX = FREE at the start of
the cycle, ReleaseWithoutAcquire. -/
def Obligations.ReleaseRestoresTheTimer : Prop :=
  ∀ s : State,
    decodeUop 0x5#4 = .release ∧
    (s.cur.ctx = .held →
      exec .release s =
        .next { s with
          nxt := { s.nxt with
            tccra := s.cur.snapA, tccrb := s.cur.snapB, timsk := s.cur.snapM, ctx := .free, regime := .none }
          history := s.history ++ [.uop s.cycle .release] }) ∧
    (s.cur.ctx = .free → exec .release s = .fault .releaseWithoutAcquire)

/-- The transitions of the context state machine (40 R106), each as a cycle with that one micro-operation (the model's trace port,
log entry 7); the counter's reset by a configuration wins over a tick (R111). -/
def Obligations.ContextTransitions : Prop :=
  ∀ s : State,
    (s.traceCycle (Uop.code .acquire) → s.cur.ctx = .free →
      ∃ t, step s = .next t ∧ t.cur.ctx = .held ∧ t.cur.regime = .none) ∧
    (s.traceCycle (Uop.code .cfgCoarse) → s.cur.ctx = .held →
      ∃ t, step s = .next t ∧ t.cur.ctx = .held ∧ t.cur.regime = .coarse ∧ t.cur.tcnt = 0) ∧
    (s.traceCycle (Uop.code .cfgFine) → s.cur.ctx = .held →
      ∃ t, step s = .next t ∧ t.cur.ctx = .held ∧ t.cur.regime = .fine ∧ t.cur.tcnt = 0) ∧
    (s.traceCycle (Uop.code .release) → s.cur.ctx = .held →
      ∃ t, step s = .next t ∧ t.cur.ctx = .free ∧ t.cur.regime = .none) ∧
    (s.traceCycle (Uop.code .acquire) → s.cur.ctx = .held → step s = .fault .nestedAcquire) ∧
    (s.traceCycle (Uop.code .cfgCoarse) ∨ s.traceCycle (Uop.code .cfgFine) → s.cur.ctx = .free →
      step s = .fault .configureWithoutAcquire) ∧
    (s.traceCycle (Uop.code .release) → s.cur.ctx = .free → step s = .fault .releaseWithoutAcquire) ∧
    (s.traceCycle (Uop.code .elapsed) →
      ∃ t, step s = .next t ∧ t.cur.ctx = s.cur.ctx ∧ t.cur.regime = s.cur.regime)

/-- The tick rule (40 R111) for every cycle the decoder runs by itself: a CFG_COARSE or CFG_FINE of the cycle makes TCNT 0;
else another agent's last write to TCNT stands (in P_CNT_W bits, log entry 21); else a tick of a running timer adds one
modulo 2^P_CNT_W; else TCNT stays. -/
def Obligations.CounterFollowsTheTickRule : Prop :=
  ∀ s t : State, s.now.ordinary → step s = .next t →
    ∃ l, t.history = s.history ++ l ∧
      t.cur.tcnt =
        if l.any (fun e => e.isUop .cfgCoarse || e.isUop .cfgFine) then 0
        else match lastTcntWrite s.now.agentWr with
          | some v => v % 2 ^ s.cfg.cntW
          | none =>
            if s.now.tick && s.cfg.running.eval s.cur.tccra s.cur.tccrb then (s.cur.tcnt + 1) % 2 ^ s.cfg.cntW
            else s.cur.tcnt

/-! ## Line micro-operations -/

/-- DIR_OUT, DIR_IN, LINE_LOW and LINE_HIGH (UOP 0x6-0x9, 41_line_io.md R120-R123): one output register each, and the record. -/
def Obligations.LineOutputsAreWritten : Prop :=
  ∀ s : State,
    (decodeUop 0x6#4 = .dirOut ∧ decodeUop 0x7#4 = .dirIn ∧ decodeUop 0x8#4 = .lineLow ∧ decodeUop 0x9#4 = .lineHigh) ∧
    exec .dirOut s =
      .next { s with nxt := { s.nxt with lineOe := true }, history := s.history ++ [.uop s.cycle .dirOut] } ∧
    exec .dirIn s =
      .next { s with nxt := { s.nxt with lineOe := false }, history := s.history ++ [.uop s.cycle .dirIn] } ∧
    exec .lineLow s =
      .next { s with nxt := { s.nxt with lineOut := false }, history := s.history ++ [.uop s.cycle .lineLow] } ∧
    exec .lineHigh s =
      .next { s with nxt := { s.nxt with lineOut := true }, history := s.history ++ [.uop s.cycle .lineHigh] }

/-- LINE_READ (41 R124): the result is line_in of the cycle, but 0 where DHTDEC pulls the line low at the start of the cycle
(R125); nothing but the record changes. -/
def Obligations.LineReadSamplesTheWire : Prop :=
  ∀ s : State,
    exec .lineRead s =
      .next { s with
        sig := { s.sig with
          lineRes := some (if s.cur.lineOe = true ∧ s.cur.lineOut = false then false else s.now.line) }
        history := s.history ++ [.uop s.cycle .lineRead] }

/-- The micro-operations each cycle issues, in order (41 R126 for the line's, 42 R142-R152 for the timer's): the records of a cycle
without a FETCH, by its phase, after the record of its host transaction (the records'
form is the model's, log entry 19). -/
def Obligations.MicroOpsPerPhase : Prop :=
  ∀ s t : State, s.decoderCycle → step s = .next t →
    ∃ us, t.history = s.history ++ s.hostRecord ++ us.map (Event.uop s.cycle) ∧
      (s.cur.phase = .idle → us = []) ∧
      (s.cur.phase = .requestStart → s.cur.tcnt < s.cfg.tReq → us = [.elapsed]) ∧
      (s.cur.phase = .requestStart → s.cfg.tReq ≤ s.cur.tcnt → us = [.elapsed, .lineHigh, .dirIn, .cfgFine]) ∧
      (s.cur.phase.polled = true → t.cur.phase = s.cur.phase → us = [.lineRead, .elapsed]) ∧
      (s.cur.phase.polled = true → t.cur.phase ≠ s.cur.phase → t.cur.phase.polled = true →
        us = [.lineRead, .elapsed, .cfgFine]) ∧
      (s.cur.phase.polled = true → t.cur.phase = .verify → us = [.lineRead, .elapsed]) ∧
      (s.cur.phase.polled = true → t.cur.phase = .idle → us = [.lineRead, .elapsed, .release]) ∧
      (s.cur.phase = .verify → us = [.release])

/-! ## The phases -/

/-- IDLE without a FETCH (42_protocol_decoder.md R142): every register keeps its value but for the timer's own count. -/
def Obligations.IdleDoesNothing : Prop :=
  ∀ s : State, s.decoderCycle → s.cur.phase = .idle →
    ∃ t, step s = .next t ∧ t.cur = { s.cur with tcnt := s.counted }

/-- REQUEST_START (42 R144): below P_T_REQ nothing but the count changes; from P_T_REQ on the line is released with the latch high,
the fine configuration is written with TCNT = 0, and WAIT_RESPONSE follows. -/
def Obligations.RequestHoldEndsAtItsLength : Prop :=
  ∀ s : State, s.decoderCycle → s.cur.phase = .requestStart → s.cur.ctx = .held →
    (s.cur.tcnt < s.cfg.tReq → ∃ t, step s = .next t ∧ t.cur = { s.cur with tcnt := s.counted }) ∧
    (s.cfg.tReq ≤ s.cur.tcnt →
      ∃ t, step s = .next t ∧
        t.cur = afterFine s .waitResponse { s.cur with lineOut := true, lineOe := false })

/-- A polled phase waits while the line shows the waiting level and the bound is not exceeded (42 R141). -/
def Obligations.PolledPhaseWaits : Prop :=
  ∀ s : State, s.decoderCycle → s.cur.phase.polled = true → s.cur.lineOe = false →
    s.now.line ≠ s.cur.phase.exitLevel → s.cur.tcnt ≤ s.cur.phase.bound s.cfg →
    ∃ t, step s = .next t ∧ t.cur = { s.cur with tcnt := s.counted }

/-- The five timeouts (60_exceptions.md R201-R205) with the failure exit (R208): the line still at the waiting level and t above
the phase's bound. -/
def Obligations.PolledPhaseTimesOut : Prop :=
  ∀ s : State, s.decoderCycle → s.cur.ctx = .held → s.cur.lineOe = false →
    (s.cur.phase = .waitResponse → s.now.line = true → s.cfg.tResp < s.cur.tcnt →
      ∃ t, step s = .next t ∧ t.cur = afterFailure s .noResponse) ∧
    (s.cur.phase = .waitPreambleLow → s.now.line = false → s.cfg.tPreLow < s.cur.tcnt →
      ∃ t, step s = .next t ∧ t.cur = afterFailure s .preambleLow) ∧
    (s.cur.phase = .waitPreambleHigh → s.now.line = true → s.cfg.tPreHigh < s.cur.tcnt →
      ∃ t, step s = .next t ∧ t.cur = afterFailure s .preambleHigh) ∧
    (s.cur.phase = .bitLow → s.now.line = false → s.cfg.tBitLow < s.cur.tcnt →
      ∃ t, step s = .next t ∧ t.cur = afterFailure s .bitLowPhase) ∧
    (s.cur.phase = .bitHigh → s.now.line = true → s.cfg.tBitHigh < s.cur.tcnt →
      ∃ t, step s = .next t ∧ t.cur = afterFailure s .bitHighPhase)

/-- The line at the exit level ends a polled phase whatever the count, and the next phase starts at TCNT = 0 in the fine
configuration (42 R145-R148, 40 R115). -/
def Obligations.PolledPhasePassesOnTheLine : Prop :=
  ∀ s : State, s.decoderCycle → s.cur.ctx = .held → s.cur.lineOe = false →
    (s.cur.phase = .waitResponse → s.now.line = false →
      ∃ t, step s = .next t ∧ t.cur = afterFine s .waitPreambleLow s.cur) ∧
    (s.cur.phase = .waitPreambleLow → s.now.line = true →
      ∃ t, step s = .next t ∧ t.cur = afterFine s .waitPreambleHigh s.cur) ∧
    (s.cur.phase = .waitPreambleHigh → s.now.line = false →
      ∃ t, step s = .next t ∧ t.cur = afterFine s .bitLow s.cur) ∧
    (s.cur.phase = .bitLow → s.now.line = true →
      ∃ t, step s = .next t ∧ t.cur = afterFine s .bitHigh s.cur)

/-- BIT_HIGH with the line low (42 R149, R151): a width in a window shifts its bit in and counts it; before the 40th bit BIT_LOW
follows with the counter reset, after it VERIFY with the counter counting on. -/
def Obligations.BitHighAcceptsAMeasuredBit : Prop :=
  ∀ (s : State) (b : Bool), s.decoderCycle → s.cur.phase = .bitHigh → s.cur.ctx = .held → s.cur.lineOe = false →
    s.now.line = false → s.cur.bitcnt.toNat < 40 →
    (if b then s.cfg.w1Min ≤ s.cur.tcnt ∧ s.cur.tcnt ≤ s.cfg.w1Max
     else s.cfg.w0Min ≤ s.cur.tcnt ∧ s.cur.tcnt ≤ s.cfg.w0Max) →
    let r := { s.cur with
      payload := s.cur.payload.extractLsb' 0 39 ++ BitVec.ofBool b
      bitcnt := BitVec.ofNat 6 (s.cur.bitcnt.toNat + 1) }
    ∃ t, step s = .next t ∧
      t.cur = if s.cur.bitcnt.toNat = 39 then { r with phase := .verify, tcnt := s.counted }
              else afterFine s .bitLow r

/-- BIT_HIGH with the line low and a width in neither window fails with InvalidBitTiming; the bit is not shifted in and not
counted (42 R151, 60 R206). -/
def Obligations.BitHighRejectsAnInvalidWidth : Prop :=
  ∀ s : State, s.decoderCycle → s.cur.phase = .bitHigh → s.cur.ctx = .held → s.cur.lineOe = false →
    s.now.line = false →
    ¬(s.cfg.w0Min ≤ s.cur.tcnt ∧ s.cur.tcnt ≤ s.cfg.w0Max) →
    ¬(s.cfg.w1Min ≤ s.cur.tcnt ∧ s.cur.tcnt ≤ s.cfg.w1Max) →
    ∃ t, step s = .next t ∧ t.cur = afterFailure s .invalidBitTiming

/-- VERIFY (42 R152, R153, 60 R207, R209): with b0..b4 the five received bytes, the sum of the first four modulo 256 decides
between the success exit, which writes DATA0-DATA3, and ChecksumMismatch. -/
def Obligations.VerifyDecidesByTheChecksum : Prop :=
  ∀ (s : State) (b0 b1 b2 b3 b4 : Byte), s.decoderCycle → s.cur.phase = .verify → s.cur.ctx = .held →
    s.cur.payload = b0 ++ b1 ++ b2 ++ b3 ++ b4 →
    ((b0.toNat + b1.toNat + b2.toNat + b3.toNat) % 256 = b4.toNat →
      ∃ t, step s = .next t ∧
        t.cur = { afterFailure s .none with ok := true, data0 := b0, data1 := b1, data2 := b2, data3 := b3 }) ∧
    ((b0.toNat + b1.toNat + b2.toNat + b3.toNat) % 256 ≠ b4.toNat →
      ∃ t, step s = .next t ∧ t.cur = afterFailure s .checksumMismatch)

/-- Classify (42 R150) with legal parameters: the two windows, inclusive at both ends, are disjoint and everything outside them is
invalid. -/
def Obligations.ClassifierFollowsTheWindows : Prop :=
  ∀ (c : Config) (w : Nat), c.legal = true →
    (classify c w = .bit0 ↔ c.w0Min ≤ w ∧ w ≤ c.w0Max) ∧
    (classify c w = .bit1 ↔ c.w1Min ≤ w ∧ w ≤ c.w1Max) ∧
    (classify c w = .invalid ↔ w < c.w0Min ∨ (c.w0Max < w ∧ w < c.w1Min) ∨ c.w1Max < w)

/-- Bits arrive most significant first: of 40 bits shifted into a cleared PAYLOAD, the k-th lands in bit 7 - (k mod 8) of byte
k div 8, byte0 being the highest (42 R151, 10_state.md R23). -/
def Obligations.BitsLandMostSignificantFirst : Prop :=
  ∀ bits : List Bool, bits.length = 40 → ∀ (k : Nat) (h : k < bits.length),
    (bits.foldl shiftIn 0#40).getLsbD (8 * (4 - k / 8) + (7 - k % 8)) = bits[k]

/-- The checksum round trip of the source (95_test_vectors.md section 1.2) through the VERIFY step (42 R152, R153): for any four bytes,
with the sum of the four modulo 256 as the fifth the step gives Success with DATA0-DATA3 the four bytes, and with any single bit
of that fifth byte flipped it gives ChecksumMismatch. -/
def Obligations.ChecksumRoundTrip : Prop :=
  ∀ (s : State) (b0 b1 b2 b3 : Byte) (k : Nat), s.decoderCycle → s.cur.phase = .verify → s.cur.ctx = .held → k < 8 →
    let b4 : Byte := BitVec.ofNat 8 (b0.toNat + b1.toNat + b2.toNat + b3.toNat)
    checksum b0 b1 b2 b3 = b4 ∧
    (s.cur.payload = b0 ++ b1 ++ b2 ++ b3 ++ b4 →
      ∃ t, step s = .next t ∧
        t.cur = { afterFailure s .none with ok := true, data0 := b0, data1 := b1, data2 := b2, data3 := b3 }) ∧
    (s.cur.payload = b0 ++ b1 ++ b2 ++ b3 ++ (b4 ^^^ (1#8 <<< k)) →
      ∃ t, step s = .next t ∧ t.cur = afterFailure s .checksumMismatch)

/-! ## Other agents, reset, parameters, marks -/

/-- Another agent's write to the timer in the ownership window faults (20_memory.md R60): PHASE is not IDLE, or the cycle's host
word is FETCH. Where the same cycle meets another fault too (a FETCH outside IDLE, a trace), that this one is the one named is
the model's choice (log entry 18). -/
def Obligations.TimerWriteInTheWindowFaults : Prop :=
  ∀ s : State, s.live → s.now.rst = .run → s.now.agentWr ≠ [] →
    s.cur.phase ≠ .idle ∨ s.now.host = some 0x801#12 →
    step s = .fault .timerOwnershipViolation

/-- Outside the window another agent's write lands with any value (40 R114; TCNT in P_CNT_W bits, log entry 21). -/
def Obligations.TimerWriteOutsideTheWindowLands : Prop :=
  ∀ (s : State) (v : TReg) (n : Nat), s.live → s.now.ordinary → s.cur.phase = .idle → s.hostFetches = false →
    (s.now.agentWr = [.tccra v] → ∃ t, step s = .next t ∧ t.cur = { s.cur with tccra := v, tcnt := s.counted }) ∧
    (s.now.agentWr = [.tccrb v] → ∃ t, step s = .next t ∧ t.cur = { s.cur with tccrb := v, tcnt := s.counted }) ∧
    (s.now.agentWr = [.timsk v] → ∃ t, step s = .next t ∧ t.cur = { s.cur with timsk := v, tcnt := s.counted }) ∧
    (s.now.agentWr = [.tcnt n] → ∃ t, step s = .next t ∧ t.cur = { s.cur with tcnt := n % 2 ^ s.cfg.cntW })

/-- The block's reset values (70_reset_and_hazards.md R230) for the machine built with any parameters. -/
def Obligations.ResetValues : Prop :=
  ∀ (c : Config) (ins : List CycleIn),
    let s := State.boot c ins
    let r := s.cur
    (r.phase = .idle ∧ r.bitcnt = 0 ∧ r.payload = 0 ∧ r.snapA = 0 ∧ r.snapB = 0 ∧ r.snapM = 0 ∧
      r.ctx = .free ∧ r.regime = .none ∧ r.busy = false ∧ r.done = false ∧ r.ok = false ∧ r.reason = .none ∧
      r.data0 = 0x00#8 ∧ r.data1 = 0x00#8 ∧ r.data2 = 0x00#8 ∧ r.data3 = 0x00#8 ∧
      r.lineOe = false ∧ r.lineOut = true) ∧
    (s.faulted = none ∧ s.refused = none ∧ s.history = []) ∧
    (statusByte r = 0x00#8 ∧ hostRead 6 r = 0x00#8 ∧ hostRead 7 r = 0x00#8)

/-- `State.reset` is that machine with the model's own parameters, and meets the invariant between cycles (its parameters are
the model's choice, log entries 2 and 3). -/
def Obligations.ResetIsLegalAndSettled : Prop :=
  State.reset = State.boot Config.atReset [] ∧ State.reset.live ∧ Inv State.reset

/-- A cycle with the system reset asserted (70 R230-R233), in every phase: every block register at its reset value, the timer at
P_TIMER_RESET, the event history empty, no micro-operation, no effect of the host transaction. That REFUSED stays set (R37's
'never cleared' beside R230's reset value) and that another agent's write in that cycle has no effect is the model's reading (log
entry 12). -/
def Obligations.SystemResetForcesResetValues : Prop :=
  ∀ s : State, s.live → s.now.rst = .system →
    ∃ t, step s = .next t ∧ t.cur = (State.boot s.cfg []).cur ∧
      t.cur.tccra = s.cfg.resetA ∧ t.cur.tccrb = s.cfg.resetB ∧ t.cur.timsk = s.cfg.resetM ∧
      t.cur.tcnt = s.cfg.resetCnt % 2 ^ s.cfg.cntW ∧
      t.history = [] ∧ t.refused = s.refused ∧ t.sig = .quiet

/-- A reset of DHTDEC alone (70 R230, R232, 60 R216): with BUSY = 1 it faults; with BUSY = 0 it gives the block its reset values,
empties the event history and leaves the timer configuration (the rest of that cycle is the model's reading, log entry 13; that
REFUSED stays set, log entry 12). -/
def Obligations.BlockResetAlone : Prop :=
  ∀ s : State, s.live → s.now.rst = .block →
    (s.cur.busy = true → step s = .fault .timerOwnershipViolation) ∧
    (s.cur.busy = false → s.now.agentWr = [] →
      ∃ t, step s = .next t ∧ t.history = [] ∧ t.refused = s.refused ∧
        t.cur = { (State.boot s.cfg []).cur with
          tccra := s.cur.tccra, tccrb := s.cur.tccrb, timsk := s.cur.timsk, tcnt := s.counted })

/-- A parameter set is legal exactly when PC1-PC5 hold, and a machine with an illegal one refuses every step (the
model's reading, log entry 11); the source's defaults meet PC1, PC2 and PC5 (00_scope.md R8). -/
def Obligations.IllegalParametersAreRefused : Prop :=
  (∀ c : Config, c.legal = true ↔
    (c.w0Min ≤ c.w0Max ∧ c.w0Max < c.w1Min ∧ c.w1Min ≤ c.w1Max) ∧
    (∀ b ∈ [c.tResp, c.tPreLow, c.tPreHigh, c.tBitLow, c.tBitHigh], b + 1 ≤ 2 ^ c.cntW - 1) ∧
    (1 ≤ c.tReq ∧ c.tReq ≤ 2 ^ c.cntW - 1) ∧
    (c.running.eval c.coarseA c.coarseB = true ∧ c.running.eval c.fineA c.fineB = true) ∧
    c.w1Max ≤ c.tBitHigh) ∧
  (Config.atReset.pc1 = true ∧ Config.atReset.pc2 = true ∧ Config.atReset.pc5 = true) ∧
  (∀ s : State, s.faulted = none → s.cfg.legal = false → step s = .refused .illegalParameters)

/-- A faulted machine takes no further step, and FAULTED is never cleared (60_exceptions.md R216; log entry 9). -/
def Obligations.FaultedStaysFaulted : Prop :=
  ∀ (s : State) (f : Fault),
    (s.faulted = some f → step s = .fault f ∧ s.marked.faulted = some f) ∧
    (step s = .fault f → s.marked.faulted = some f)

/-- What every step does with what is no register: the parameters stay, FAULTED is not set, a REFUSED once set stays, the records
already in the history stay but for a reset, which empties it; after a step nothing is staged and the next cycle's inputs stand
at the head. That a REFUSED outlives a reset is the model's reading (log entry 12), and the input list, the records' form, the
cycle number and the staging are its own (log entries 6, 19, 20). -/
def Obligations.StepKeepsTheBookkeeping : Prop :=
  ∀ s t : State, step s = .next t →
    t.cfg = s.cfg ∧ s.faulted = none ∧ t.faulted = none ∧
    (∀ n, s.refused = some n → t.refused = some n) ∧
    (s.now.rst = .run → ∃ l, t.history = s.history ++ l) ∧
    (s.now.rst ≠ .run → t.history = []) ∧
    t.nxt = t.cur ∧ t.cntWr = false ∧ t.inputs = s.inputs.tail ∧ t.cycle = s.cycle + 1

/-! ## Whole-machine rules -/

/-- Every step of a machine that runs by its own rules keeps the invariant: I1-I7 of 10_state.md R35, and what they rest on. -/
def Obligations.StepKeepsTheInvariant : Prop :=
  ∀ s t : State, Inv s → s.now.trace = none → step s = .next t → Inv t

/-- 10_state.md R35: at the end of every cycle, from power-up with any legal parameters and whatever the environment does, I1-I7
hold. -/
def Obligations.ReachedStatesMeetR35 : Prop :=
  ∀ (c : Config) (ins : List CycleIn) (k : Nat) (t : State),
    c.legal = true → (∀ i ∈ ins, i.trace = none) →
    Host.Core.run Sys2Proof.core k (State.boot c ins) = .next t → SpecInv t.cur

/-- The phase order (42_protocol_decoder.md R155, R154): no phase is skipped, a run leaves the order only to IDLE and then has
ended (DONE), IDLE is left only by a FETCH. -/
def Obligations.PhasesFollowTheOrder : Prop :=
  ∀ s t : State, s.now.ordinary → step s = .next t →
    t.cur.phase ∈ phaseSuccessors s.cur.phase ∧
    (s.cur.phase ≠ .idle → t.cur.phase = .idle → t.cur.done = true ∧ t.cur.busy = false) ∧
    (s.cur.phase = .idle → t.cur.phase = .requestStart → s.hostFetches = true)

/-- The writer of each register (10_state.md R39): what changed says which rule ran. -/
def Obligations.RegistersHaveTheirWriters : Prop :=
  ∀ s t : State, s.now.ordinary → step s = .next t →
    let a := s.cur
    let b := t.cur
    let start := s.hostFetches = true ∧ a.phase = .idle
    (b.bitcnt ≠ a.bitcnt ∨ b.payload ≠ a.payload → start ∨ a.phase = .bitHigh) ∧
    (b.snapA ≠ a.snapA ∨ b.snapB ≠ a.snapB ∨ b.snapM ≠ a.snapM → start) ∧
    (b.busy ≠ a.busy ∨ b.done ≠ a.done ∨ b.ok ≠ a.ok ∨ b.reason ≠ a.reason →
      start ∨ (a.phase ≠ .idle ∧ b.phase = .idle)) ∧
    (b.ctx ≠ a.ctx ∨ b.regime ≠ a.regime → start ∨ a.phase ≠ .idle) ∧
    (b.data0 ≠ a.data0 ∨ b.data1 ≠ a.data1 ∨ b.data2 ≠ a.data2 ∨ b.data3 ≠ a.data3 →
      a.phase = .verify ∧ b.ok = true) ∧
    (b.lineOe ≠ a.lineOe ∨ b.lineOut ≠ a.lineOut → start ∨ a.phase = .requestStart) ∧
    (b.tccra ≠ a.tccra ∨ b.tccrb ≠ a.tccrb ∨ b.timsk ≠ a.timsk →
      start ∨ a.phase ≠ .idle ∨ s.now.agentWr ≠ [])

/-- STATUS at host address 1 (10_state.md R27): its layout, that a write to it is ignored, and the values it can read in every
state between cycles: 0x01 during a run, else 0x00 before any run ended,
0x06 after a Success, 0x02 | (REASON << 4) after a Failure. -/
def Obligations.StatusReadsOnlyItsValues : Prop :=
  ∀ s : State, Inv s →
    hostRead 1 s.cur =
      0#1 ++ s.cur.reason.code ++ 0#1 ++ BitVec.ofBool s.cur.ok ++ BitVec.ofBool s.cur.done ++ BitVec.ofBool s.cur.busy ∧
    hostRead 1 s.cur = statusByte s.cur ∧
    (∀ d : Byte, exec (.wrStatus d) s = .next s) ∧
    (s.cur.busy = true → statusByte s.cur = 0x01#8) ∧
    (s.cur.busy = false → s.cur.done = false → statusByte s.cur = 0x00#8) ∧
    (s.cur.busy = false → s.cur.done = true → s.cur.ok = true → statusByte s.cur = 0x06#8) ∧
    (s.cur.busy = false → s.cur.done = true → s.cur.ok = false →
      s.cur.reason ≠ .none ∧ statusByte s.cur = 0x02#8 ||| (s.cur.reason.code.setWidth 8 <<< 4))

/-- The restoration property (40_timer_context.md R108): after a run's exit the three timer configuration registers equal their
values at the FETCH, whatever the outcome. -/
def Obligations.RunRestoresTheTimer : Prop :=
  ∀ (s : State) (k : Nat) (u : State), IsRun s k u →
    u.cur.tccra = s.cur.tccra ∧ u.cur.tccrb = s.cur.tccrb ∧ u.cur.timsk = s.cur.timsk

/-- The host-visible outcome of every run (43_host_interface.md R195): one of the eight rows, with DATA0-DATA3 unchanged but for a
Success, which holds the frame's first four bytes, and the timer configuration restored; and the line is released with the latch high (41_line_io.md R128). -/
def Obligations.RunHasOneOfEightOutcomes : Prop :=
  ∀ (s : State) (k : Nat) (u : State), IsRun s k u →
    let kept := u.cur.data0 = s.cur.data0 ∧ u.cur.data1 = s.cur.data1 ∧ u.cur.data2 = s.cur.data2 ∧
      u.cur.data3 = s.cur.data3
    let n := u.cur.bitcnt.toNat
    u.cur.lineOe = false ∧ u.cur.lineOut = true ∧
    (u.cur.tccra = s.cur.tccra ∧ u.cur.tccrb = s.cur.tccrb ∧ u.cur.timsk = s.cur.timsk) ∧
    ((statusByte u.cur = 0x06#8 ∧ n = 40 ∧ ∃ b4 : Byte,
        u.cur.payload = u.cur.data0 ++ u.cur.data1 ++ u.cur.data2 ++ u.cur.data3 ++ b4 ∧
        (u.cur.data0.toNat + u.cur.data1.toNat + u.cur.data2.toNat + u.cur.data3.toNat) % 256 = b4.toNat) ∨
      (statusByte u.cur = 0x12#8 ∧ n = 0 ∧ kept) ∨
      (statusByte u.cur = 0x22#8 ∧ n = 0 ∧ kept) ∨
      (statusByte u.cur = 0x32#8 ∧ n = 0 ∧ kept) ∨
      (statusByte u.cur = 0x42#8 ∧ n ≤ 39 ∧ kept) ∨
      (statusByte u.cur = 0x52#8 ∧ n ≤ 39 ∧ kept) ∨
      (statusByte u.cur = 0x62#8 ∧ n ≤ 39 ∧ kept) ∨
      (statusByte u.cur = 0x72#8 ∧ n = 40 ∧ kept))

/-- Exactly-once bracketing (40 R107): a run's records hold one ACQUIRE, in the FETCH cycle, and one RELEASE, in its last cycle; and
none is issued outside a run: a cycle records an ACQUIRE exactly when it accepts a FETCH, and a RELEASE exactly when it ends a
run. -/
def Obligations.AcquireAndReleaseBracketEveryRun : Prop :=
  (∀ (s : State) (k : Nat) (u : State), IsRun s k u →
    ∃ l, u.history = s.history ++ l ∧
      l.countP (Event.isUop .acquire) = 1 ∧ Event.uop s.cycle .acquire ∈ l ∧
      l.countP (Event.isUop .release) = 1 ∧ Event.uop (s.cycle + k) .release ∈ l) ∧
  (∀ s t : State, s.now.ordinary → step s = .next t →
    ∃ l, t.history = s.history ++ l ∧
      (Event.uop s.cycle .acquire ∈ l ↔ s.cur.phase = .idle ∧ s.hostFetches = true) ∧
      (Event.uop s.cycle .release ∈ l ↔ s.cur.phase ≠ .idle ∧ t.cur.phase = .idle))

/-- The clean-entry premise (70_reset_and_hazards.md R236) suffices: from a state that meets it, with any timer registers, DATA and
previous STATUS, a FETCH with no other agent's write in its cycle and only quiet cycles after it starts a run that meets the
premise to its end, once as many of those cycles carry a tick as a run can take (42_protocol_decoder.md R156, 40 R112): no fault
stops it, and it ends with REFUSED = 0 where the host writes no reserved command either (43 R193, D-H5). -/
def Obligations.CleanEntryLeadsToACleanRun : Prop :=
  ∀ s : State, s.cleanEntry → s.hostFetches = true → s.now.ordinary → s.now.agentWr = [] →
    (∀ i ∈ s.inputs.tail, i.quiet) →
    (s.cfg.tReq + 1) + (s.cfg.tResp + 2) + (s.cfg.tPreLow + 2) + (s.cfg.tPreHigh + 2) +
        40 * ((s.cfg.tBitLow + 2) + (s.cfg.tBitHigh + 2)) + 1 ≤ s.inputs.tail.countP (fun i => i.tick) →
    ∃ k u, k ≤ s.inputs.tail.length ∧ IsCleanRun s k u ∧ u.cur.done = true ∧ u.faulted = none ∧
      ((∀ j, j ≤ k → ∀ x, Host.Core.run Sys2Proof.core j s = .next x → x.dutyCommand) → u.refused = none)

/-- Every run ends (42_protocol_decoder.md R156): from any cycle of a run, if among the cycles to come, all quiet, as many carry a
tick as the run can still take (at most one per tick of each remaining bound, one for each exit cycle, one for VERIFY), the
machine reaches IDLE with DONE set within those cycles. -/
def Obligations.RunEndsWithinItsTicks : Prop :=
  ∀ s : State, s.live → Inv s → s.cur.phase ≠ .idle → (∀ i ∈ s.inputs, i.quiet) →
    ticksLeft s.cfg s.cur ≤ s.inputs.countP (fun i => i.tick) →
    ∃ k, k ≤ s.inputs.length ∧ ∃ t, Host.Core.run Sys2Proof.core k s = .next t ∧
      t.cur.phase = .idle ∧ t.cur.done = true

/-- The measure of that bound: in a quiet cycle a run's remaining ticks do not rise, and an effective tick lowers them; at the run's
start they are at most P_T_REQ + 1 and, for each polled phase, its bound + 2, and one for VERIFY (42 R156). -/
def Obligations.TicksLeftDecrease : Prop :=
  ∀ s t : State, Inv s → s.cur.phase ≠ .idle → s.now.quiet → step s = .next t →
    ticksLeft s.cfg t.cur + (if s.now.tick then 1 else 0) ≤ ticksLeft s.cfg s.cur ∧
    ticksLeft s.cfg s.cur ≤
      (s.cfg.tReq + 1) + (s.cfg.tResp + 2) + (s.cfg.tPreLow + 2) + (s.cfg.tPreHigh + 2) +
        40 * ((s.cfg.tBitLow + 2) + (s.cfg.tBitHigh + 2)) + 1
end

