-- ==== Sys2Proof/Laws/State.lean ====
section
/-! SUPPORT. One lemma per field per update of State, true by rfl, so that no later proof unfolds a record update; and what
the updates inside a cycle leave of the cycle's inputs. -/

namespace Sys2Proof.Machine

section
variable (s : State)

@[simp] theorem stage_cfg (f : Regs → Regs) : (s.stage f).cfg = s.cfg := rfl
@[simp] theorem stage_cur (f : Regs → Regs) : (s.stage f).cur = s.cur := rfl
@[simp] theorem stage_nxt (f : Regs → Regs) : (s.stage f).nxt = f s.nxt := rfl
@[simp] theorem stage_cntWr (f : Regs → Regs) : (s.stage f).cntWr = s.cntWr := rfl
@[simp] theorem stage_sig (f : Regs → Regs) : (s.stage f).sig = s.sig := rfl
@[simp] theorem stage_inputs (f : Regs → Regs) : (s.stage f).inputs = s.inputs := rfl
@[simp] theorem stage_cycle (f : Regs → Regs) : (s.stage f).cycle = s.cycle := rfl
@[simp] theorem stage_history (f : Regs → Regs) : (s.stage f).history = s.history := rfl
@[simp] theorem stage_faulted (f : Regs → Regs) : (s.stage f).faulted = s.faulted := rfl
@[simp] theorem stage_refused (f : Regs → Regs) : (s.stage f).refused = s.refused := rfl

@[simp] theorem stageTcnt_cfg (v : Nat) : (s.stageTcnt v).cfg = s.cfg := rfl
@[simp] theorem stageTcnt_cur (v : Nat) : (s.stageTcnt v).cur = s.cur := rfl
@[simp] theorem stageTcnt_nxt (v : Nat) : (s.stageTcnt v).nxt = { s.nxt with tcnt := v } := rfl
@[simp] theorem stageTcnt_cntWr (v : Nat) : (s.stageTcnt v).cntWr = true := rfl
@[simp] theorem stageTcnt_sig (v : Nat) : (s.stageTcnt v).sig = s.sig := rfl
@[simp] theorem stageTcnt_inputs (v : Nat) : (s.stageTcnt v).inputs = s.inputs := rfl
@[simp] theorem stageTcnt_cycle (v : Nat) : (s.stageTcnt v).cycle = s.cycle := rfl
@[simp] theorem stageTcnt_history (v : Nat) : (s.stageTcnt v).history = s.history := rfl
@[simp] theorem stageTcnt_faulted (v : Nat) : (s.stageTcnt v).faulted = s.faulted := rfl
@[simp] theorem stageTcnt_refused (v : Nat) : (s.stageTcnt v).refused = s.refused := rfl

@[simp] theorem emit_cfg (u : Uop) : (s.emit u).cfg = s.cfg := rfl
@[simp] theorem emit_cur (u : Uop) : (s.emit u).cur = s.cur := rfl
@[simp] theorem emit_nxt (u : Uop) : (s.emit u).nxt = s.nxt := rfl
@[simp] theorem emit_cntWr (u : Uop) : (s.emit u).cntWr = s.cntWr := rfl
@[simp] theorem emit_sig (u : Uop) : (s.emit u).sig = s.sig := rfl
@[simp] theorem emit_inputs (u : Uop) : (s.emit u).inputs = s.inputs := rfl
@[simp] theorem emit_cycle (u : Uop) : (s.emit u).cycle = s.cycle := rfl
@[simp] theorem emit_history (u : Uop) : (s.emit u).history = s.history ++ [Event.uop s.cycle u] := rfl
@[simp] theorem emit_faulted (u : Uop) : (s.emit u).faulted = s.faulted := rfl
@[simp] theorem emit_refused (u : Uop) : (s.emit u).refused = s.refused := rfl

@[simp] theorem record_cfg (w : HpwWord) : (s.record w).cfg = s.cfg := rfl
@[simp] theorem record_cur (w : HpwWord) : (s.record w).cur = s.cur := rfl
@[simp] theorem record_nxt (w : HpwWord) : (s.record w).nxt = s.nxt := rfl
@[simp] theorem record_cntWr (w : HpwWord) : (s.record w).cntWr = s.cntWr := rfl
@[simp] theorem record_sig (w : HpwWord) : (s.record w).sig = s.sig := rfl
@[simp] theorem record_inputs (w : HpwWord) : (s.record w).inputs = s.inputs := rfl
@[simp] theorem record_cycle (w : HpwWord) : (s.record w).cycle = s.cycle := rfl
@[simp] theorem record_history (w : HpwWord) : (s.record w).history = s.history ++ [Event.host s.cycle w] := rfl
@[simp] theorem record_faulted (w : HpwWord) : (s.record w).faulted = s.faulted := rfl
@[simp] theorem record_refused (w : HpwWord) : (s.record w).refused = s.refused := rfl

@[simp] theorem markRefused_cfg (n : RefuseName) : (s.markRefused n).cfg = s.cfg := rfl
@[simp] theorem markRefused_cur (n : RefuseName) : (s.markRefused n).cur = s.cur := rfl
@[simp] theorem markRefused_nxt (n : RefuseName) : (s.markRefused n).nxt = s.nxt := rfl
@[simp] theorem markRefused_cntWr (n : RefuseName) : (s.markRefused n).cntWr = s.cntWr := rfl
@[simp] theorem markRefused_sig (n : RefuseName) : (s.markRefused n).sig = s.sig := rfl
@[simp] theorem markRefused_inputs (n : RefuseName) : (s.markRefused n).inputs = s.inputs := rfl
@[simp] theorem markRefused_cycle (n : RefuseName) : (s.markRefused n).cycle = s.cycle := rfl
@[simp] theorem markRefused_history (n : RefuseName) : (s.markRefused n).history = s.history := rfl
@[simp] theorem markRefused_faulted (n : RefuseName) : (s.markRefused n).faulted = s.faulted := rfl
@[simp] theorem markRefused_refused (n : RefuseName) : (s.markRefused n).refused = s.refused.or (some n) := rfl

@[simp] theorem hostPortRead_cfg (a : BitVec 3) : (hostPortRead a s).cfg = s.cfg := rfl
@[simp] theorem hostPortRead_cur (a : BitVec 3) : (hostPortRead a s).cur = s.cur := rfl
@[simp] theorem hostPortRead_nxt (a : BitVec 3) : (hostPortRead a s).nxt = s.nxt := rfl
@[simp] theorem hostPortRead_cntWr (a : BitVec 3) : (hostPortRead a s).cntWr = s.cntWr := rfl
@[simp] theorem hostPortRead_sig (a : BitVec 3) : (hostPortRead a s).sig = { s.sig with rdata := some (hostRead a s.cur) } := rfl
@[simp] theorem hostPortRead_inputs (a : BitVec 3) : (hostPortRead a s).inputs = s.inputs := rfl
@[simp] theorem hostPortRead_cycle (a : BitVec 3) : (hostPortRead a s).cycle = s.cycle := rfl
@[simp] theorem hostPortRead_history (a : BitVec 3) : (hostPortRead a s).history = s.history := rfl
@[simp] theorem hostPortRead_faulted (a : BitVec 3) : (hostPortRead a s).faulted = s.faulted := rfl
@[simp] theorem hostPortRead_refused (a : BitVec 3) : (hostPortRead a s).refused = s.refused := rfl

@[simp] theorem opElapsed_cfg : (opElapsed s).cfg = s.cfg := rfl
@[simp] theorem opElapsed_cur : (opElapsed s).cur = s.cur := rfl
@[simp] theorem opElapsed_nxt : (opElapsed s).nxt = s.nxt := rfl
@[simp] theorem opElapsed_cntWr : (opElapsed s).cntWr = s.cntWr := rfl
@[simp] theorem opElapsed_sig : (opElapsed s).sig = { s.sig with tickRes := some s.cur.tcnt } := rfl
@[simp] theorem opElapsed_inputs : (opElapsed s).inputs = s.inputs := rfl
@[simp] theorem opElapsed_cycle : (opElapsed s).cycle = s.cycle := rfl
@[simp] theorem opElapsed_history : (opElapsed s).history = s.history ++ [Event.uop s.cycle .elapsed] := rfl
@[simp] theorem opElapsed_faulted : (opElapsed s).faulted = s.faulted := rfl
@[simp] theorem opElapsed_refused : (opElapsed s).refused = s.refused := rfl

@[simp] theorem opLineRead_cfg : (opLineRead s).cfg = s.cfg := rfl
@[simp] theorem opLineRead_cur : (opLineRead s).cur = s.cur := rfl
@[simp] theorem opLineRead_nxt : (opLineRead s).nxt = s.nxt := rfl
@[simp] theorem opLineRead_cntWr : (opLineRead s).cntWr = s.cntWr := rfl
@[simp] theorem opLineRead_sig : (opLineRead s).sig = { s.sig with lineRes := some s.lineSample } := rfl
@[simp] theorem opLineRead_inputs : (opLineRead s).inputs = s.inputs := rfl
@[simp] theorem opLineRead_cycle : (opLineRead s).cycle = s.cycle := rfl
@[simp] theorem opLineRead_history : (opLineRead s).history = s.history ++ [Event.uop s.cycle .lineRead] := rfl
@[simp] theorem opLineRead_faulted : (opLineRead s).faulted = s.faulted := rfl
@[simp] theorem opLineRead_refused : (opLineRead s).refused = s.refused := rfl

@[simp] theorem opDirOut_cfg : (opDirOut s).cfg = s.cfg := rfl
@[simp] theorem opDirOut_cur : (opDirOut s).cur = s.cur := rfl
@[simp] theorem opDirOut_nxt : (opDirOut s).nxt = { s.nxt with lineOe := true } := rfl
@[simp] theorem opDirOut_cntWr : (opDirOut s).cntWr = s.cntWr := rfl
@[simp] theorem opDirOut_sig : (opDirOut s).sig = s.sig := rfl
@[simp] theorem opDirOut_inputs : (opDirOut s).inputs = s.inputs := rfl
@[simp] theorem opDirOut_cycle : (opDirOut s).cycle = s.cycle := rfl
@[simp] theorem opDirOut_history : (opDirOut s).history = s.history ++ [Event.uop s.cycle .dirOut] := rfl
@[simp] theorem opDirOut_faulted : (opDirOut s).faulted = s.faulted := rfl
@[simp] theorem opDirOut_refused : (opDirOut s).refused = s.refused := rfl

@[simp] theorem opDirIn_cfg : (opDirIn s).cfg = s.cfg := rfl
@[simp] theorem opDirIn_cur : (opDirIn s).cur = s.cur := rfl
@[simp] theorem opDirIn_nxt : (opDirIn s).nxt = { s.nxt with lineOe := false } := rfl
@[simp] theorem opDirIn_cntWr : (opDirIn s).cntWr = s.cntWr := rfl
@[simp] theorem opDirIn_sig : (opDirIn s).sig = s.sig := rfl
@[simp] theorem opDirIn_inputs : (opDirIn s).inputs = s.inputs := rfl
@[simp] theorem opDirIn_cycle : (opDirIn s).cycle = s.cycle := rfl
@[simp] theorem opDirIn_history : (opDirIn s).history = s.history ++ [Event.uop s.cycle .dirIn] := rfl
@[simp] theorem opDirIn_faulted : (opDirIn s).faulted = s.faulted := rfl
@[simp] theorem opDirIn_refused : (opDirIn s).refused = s.refused := rfl

@[simp] theorem opLineLow_cfg : (opLineLow s).cfg = s.cfg := rfl
@[simp] theorem opLineLow_cur : (opLineLow s).cur = s.cur := rfl
@[simp] theorem opLineLow_nxt : (opLineLow s).nxt = { s.nxt with lineOut := false } := rfl
@[simp] theorem opLineLow_cntWr : (opLineLow s).cntWr = s.cntWr := rfl
@[simp] theorem opLineLow_sig : (opLineLow s).sig = s.sig := rfl
@[simp] theorem opLineLow_inputs : (opLineLow s).inputs = s.inputs := rfl
@[simp] theorem opLineLow_cycle : (opLineLow s).cycle = s.cycle := rfl
@[simp] theorem opLineLow_history : (opLineLow s).history = s.history ++ [Event.uop s.cycle .lineLow] := rfl
@[simp] theorem opLineLow_faulted : (opLineLow s).faulted = s.faulted := rfl
@[simp] theorem opLineLow_refused : (opLineLow s).refused = s.refused := rfl

@[simp] theorem opLineHigh_cfg : (opLineHigh s).cfg = s.cfg := rfl
@[simp] theorem opLineHigh_cur : (opLineHigh s).cur = s.cur := rfl
@[simp] theorem opLineHigh_nxt : (opLineHigh s).nxt = { s.nxt with lineOut := true } := rfl
@[simp] theorem opLineHigh_cntWr : (opLineHigh s).cntWr = s.cntWr := rfl
@[simp] theorem opLineHigh_sig : (opLineHigh s).sig = s.sig := rfl
@[simp] theorem opLineHigh_inputs : (opLineHigh s).inputs = s.inputs := rfl
@[simp] theorem opLineHigh_cycle : (opLineHigh s).cycle = s.cycle := rfl
@[simp] theorem opLineHigh_history : (opLineHigh s).history = s.history ++ [Event.uop s.cycle .lineHigh] := rfl
@[simp] theorem opLineHigh_faulted : (opLineHigh s).faulted = s.faulted := rfl
@[simp] theorem opLineHigh_refused : (opLineHigh s).refused = s.refused := rfl

@[simp] theorem beginCycle_cfg : (s.beginCycle).cfg = s.cfg := rfl
@[simp] theorem beginCycle_cur : (s.beginCycle).cur = s.cur := rfl
@[simp] theorem beginCycle_nxt : (s.beginCycle).nxt = s.cur := rfl
@[simp] theorem beginCycle_cntWr : (s.beginCycle).cntWr = false := rfl
@[simp] theorem beginCycle_sig : (s.beginCycle).sig = .quiet := rfl
@[simp] theorem beginCycle_inputs : (s.beginCycle).inputs = s.inputs := rfl
@[simp] theorem beginCycle_cycle : (s.beginCycle).cycle = s.cycle := rfl
@[simp] theorem beginCycle_history : (s.beginCycle).history = s.history := rfl
@[simp] theorem beginCycle_faulted : (s.beginCycle).faulted = s.faulted := rfl
@[simp] theorem beginCycle_refused : (s.beginCycle).refused = s.refused := rfl

@[simp] theorem clearHistory_cfg : (s.clearHistory).cfg = s.cfg := rfl
@[simp] theorem clearHistory_cur : (s.clearHistory).cur = s.cur := rfl
@[simp] theorem clearHistory_nxt : (s.clearHistory).nxt = s.nxt := rfl
@[simp] theorem clearHistory_cntWr : (s.clearHistory).cntWr = s.cntWr := rfl
@[simp] theorem clearHistory_sig : (s.clearHistory).sig = s.sig := rfl
@[simp] theorem clearHistory_inputs : (s.clearHistory).inputs = s.inputs := rfl
@[simp] theorem clearHistory_cycle : (s.clearHistory).cycle = s.cycle := rfl
@[simp] theorem clearHistory_history : (s.clearHistory).history = [] := rfl
@[simp] theorem clearHistory_faulted : (s.clearHistory).faulted = s.faulted := rfl
@[simp] theorem clearHistory_refused : (s.clearHistory).refused = s.refused := rfl

@[simp] theorem advance_cfg (r : Regs) : (s.advance r).cfg = s.cfg := rfl
@[simp] theorem advance_cur (r : Regs) : (s.advance r).cur = r := rfl
@[simp] theorem advance_nxt (r : Regs) : (s.advance r).nxt = r := rfl
@[simp] theorem advance_cntWr (r : Regs) : (s.advance r).cntWr = false := rfl
@[simp] theorem advance_sig (r : Regs) : (s.advance r).sig = s.sig := rfl
@[simp] theorem advance_inputs (r : Regs) : (s.advance r).inputs = s.inputs.tail := rfl
@[simp] theorem advance_cycle (r : Regs) : (s.advance r).cycle = s.cycle + 1 := rfl
@[simp] theorem advance_history (r : Regs) : (s.advance r).history = s.history := rfl
@[simp] theorem advance_faulted (r : Regs) : (s.advance r).faulted = s.faulted := rfl
@[simp] theorem advance_refused (r : Regs) : (s.advance r).refused = s.refused := rfl

@[simp] theorem endCycle_cfg : (s.endCycle).cfg = s.cfg := rfl
@[simp] theorem endCycle_cur : (s.endCycle).cur = { s.nxt with tcnt := s.tcntNext } := rfl
@[simp] theorem endCycle_nxt : (s.endCycle).nxt = { s.nxt with tcnt := s.tcntNext } := rfl
@[simp] theorem endCycle_cntWr : (s.endCycle).cntWr = false := rfl
@[simp] theorem endCycle_sig : (s.endCycle).sig = s.sig := rfl
@[simp] theorem endCycle_inputs : (s.endCycle).inputs = s.inputs.tail := rfl
@[simp] theorem endCycle_cycle : (s.endCycle).cycle = s.cycle + 1 := rfl
@[simp] theorem endCycle_history : (s.endCycle).history = s.history := rfl
@[simp] theorem endCycle_faulted : (s.endCycle).faulted = s.faulted := rfl
@[simp] theorem endCycle_refused : (s.endCycle).refused = s.refused := rfl

@[simp] theorem stage_now (f : Regs → Regs) : (s.stage f).now = s.now := rfl
@[simp] theorem stage_lineSample (f : Regs → Regs) : (s.stage f).lineSample = s.lineSample := rfl
@[simp] theorem stage_timerRunning (f : Regs → Regs) : (s.stage f).timerRunning = s.timerRunning := rfl
@[simp] theorem stage_ticks (f : Regs → Regs) : (s.stage f).ticks = s.ticks := rfl
@[simp] theorem stageTcnt_now (v : Nat) : (s.stageTcnt v).now = s.now := rfl
@[simp] theorem stageTcnt_lineSample (v : Nat) : (s.stageTcnt v).lineSample = s.lineSample := rfl
@[simp] theorem stageTcnt_timerRunning (v : Nat) : (s.stageTcnt v).timerRunning = s.timerRunning := rfl
@[simp] theorem stageTcnt_ticks (v : Nat) : (s.stageTcnt v).ticks = s.ticks := rfl
@[simp] theorem emit_now (u : Uop) : (s.emit u).now = s.now := rfl
@[simp] theorem emit_lineSample (u : Uop) : (s.emit u).lineSample = s.lineSample := rfl
@[simp] theorem emit_timerRunning (u : Uop) : (s.emit u).timerRunning = s.timerRunning := rfl
@[simp] theorem emit_ticks (u : Uop) : (s.emit u).ticks = s.ticks := rfl
@[simp] theorem record_now (w : HpwWord) : (s.record w).now = s.now := rfl
@[simp] theorem record_lineSample (w : HpwWord) : (s.record w).lineSample = s.lineSample := rfl
@[simp] theorem record_timerRunning (w : HpwWord) : (s.record w).timerRunning = s.timerRunning := rfl
@[simp] theorem record_ticks (w : HpwWord) : (s.record w).ticks = s.ticks := rfl
@[simp] theorem markRefused_now (n : RefuseName) : (s.markRefused n).now = s.now := rfl
@[simp] theorem markRefused_lineSample (n : RefuseName) : (s.markRefused n).lineSample = s.lineSample := rfl
@[simp] theorem markRefused_timerRunning (n : RefuseName) : (s.markRefused n).timerRunning = s.timerRunning := rfl
@[simp] theorem markRefused_ticks (n : RefuseName) : (s.markRefused n).ticks = s.ticks := rfl
@[simp] theorem hostPortRead_now (a : BitVec 3) : (hostPortRead a s).now = s.now := rfl
@[simp] theorem hostPortRead_lineSample (a : BitVec 3) : (hostPortRead a s).lineSample = s.lineSample := rfl
@[simp] theorem hostPortRead_timerRunning (a : BitVec 3) : (hostPortRead a s).timerRunning = s.timerRunning := rfl
@[simp] theorem hostPortRead_ticks (a : BitVec 3) : (hostPortRead a s).ticks = s.ticks := rfl
@[simp] theorem opElapsed_now : (opElapsed s).now = s.now := rfl
@[simp] theorem opElapsed_lineSample : (opElapsed s).lineSample = s.lineSample := rfl
@[simp] theorem opElapsed_timerRunning : (opElapsed s).timerRunning = s.timerRunning := rfl
@[simp] theorem opElapsed_ticks : (opElapsed s).ticks = s.ticks := rfl
@[simp] theorem opLineRead_now : (opLineRead s).now = s.now := rfl
@[simp] theorem opLineRead_lineSample : (opLineRead s).lineSample = s.lineSample := rfl
@[simp] theorem opLineRead_timerRunning : (opLineRead s).timerRunning = s.timerRunning := rfl
@[simp] theorem opLineRead_ticks : (opLineRead s).ticks = s.ticks := rfl
@[simp] theorem opDirOut_now : (opDirOut s).now = s.now := rfl
@[simp] theorem opDirOut_lineSample : (opDirOut s).lineSample = s.lineSample := rfl
@[simp] theorem opDirOut_timerRunning : (opDirOut s).timerRunning = s.timerRunning := rfl
@[simp] theorem opDirOut_ticks : (opDirOut s).ticks = s.ticks := rfl
@[simp] theorem opDirIn_now : (opDirIn s).now = s.now := rfl
@[simp] theorem opDirIn_lineSample : (opDirIn s).lineSample = s.lineSample := rfl
@[simp] theorem opDirIn_timerRunning : (opDirIn s).timerRunning = s.timerRunning := rfl
@[simp] theorem opDirIn_ticks : (opDirIn s).ticks = s.ticks := rfl
@[simp] theorem opLineLow_now : (opLineLow s).now = s.now := rfl
@[simp] theorem opLineLow_lineSample : (opLineLow s).lineSample = s.lineSample := rfl
@[simp] theorem opLineLow_timerRunning : (opLineLow s).timerRunning = s.timerRunning := rfl
@[simp] theorem opLineLow_ticks : (opLineLow s).ticks = s.ticks := rfl
@[simp] theorem opLineHigh_now : (opLineHigh s).now = s.now := rfl
@[simp] theorem opLineHigh_lineSample : (opLineHigh s).lineSample = s.lineSample := rfl
@[simp] theorem opLineHigh_timerRunning : (opLineHigh s).timerRunning = s.timerRunning := rfl
@[simp] theorem opLineHigh_ticks : (opLineHigh s).ticks = s.ticks := rfl
@[simp] theorem beginCycle_now : (s.beginCycle).now = s.now := rfl
@[simp] theorem beginCycle_lineSample : (s.beginCycle).lineSample = s.lineSample := rfl
@[simp] theorem beginCycle_timerRunning : (s.beginCycle).timerRunning = s.timerRunning := rfl
@[simp] theorem beginCycle_ticks : (s.beginCycle).ticks = s.ticks := rfl
@[simp] theorem clearHistory_now : (s.clearHistory).now = s.now := rfl
@[simp] theorem clearHistory_lineSample : (s.clearHistory).lineSample = s.lineSample := rfl
@[simp] theorem clearHistory_timerRunning : (s.clearHistory).timerRunning = s.timerRunning := rfl
@[simp] theorem clearHistory_ticks : (s.clearHistory).ticks = s.ticks := rfl

@[simp] theorem hostPortIgnore_eq : hostPortIgnore s = s := rfl

end

@[simp] theorem andThen_next (s : State) (f : State → Res) : andThen (.next s) f = f s := rfl

@[simp] theorem andThen_fault (r : Fault) (f : State → Res) : andThen (.fault r) f = .fault r := rfl

@[simp] theorem andThen_refused (r : Refusal) (f : State → Res) : andThen (.refused r) f = .refused r := rfl

/-- A sequence answers a next state only through a next state of its first part. -/
theorem andThen_eq_next {o : Res} {f : State → Res} {t : State} :
    andThen o f = .next t ↔ ∃ s, o = .next s ∧ f s = .next t := by
  cases o <;> simp [andThen]

theorem andThen_assoc (o : Res) (f g : State → Res) :
    andThen (andThen o f) g = andThen o fun s => andThen (f s) g := by
  cases o <;> rfl

theorem now_of_nil {s : State} (h : s.inputs = []) : s.now = freeIn s.cycle := by
  simp [State.now, h]

theorem now_of_cons {s : State} {i : CycleIn} {is : List CycleIn} (h : s.inputs = i :: is) : s.now = i := by
  simp [State.now, h]

end Sys2Proof.Machine
end

