-- ==== Sys2Proof/Laws/Words.lean ====
section
/-! SUPPORT. Facts about words: fields of a host word, the encoder against the decoder on one word, the bytes of a frame, the bit
shift, STATUS as a number. -/

namespace Sys2Proof

theorem hpwWrite_we : ∀ (a : BitVec 3) (d : Byte), (hpwWrite a d).we = true := by decide

theorem hpwWrite_addr : ∀ (a : BitVec 3) (d : Byte), (hpwWrite a d).addr = a := by decide

theorem hpwWrite_wdata : ∀ (a : BitVec 3) (d : Byte), (hpwWrite a d).wdata = d := by decide

theorem hpwRead_we : ∀ (a : BitVec 3) (d : Byte), (hpwRead a d).we = false := by decide

theorem hpwRead_addr : ∀ (a : BitVec 3) (d : Byte), (hpwRead a d).addr = a := by decide

theorem hpwRead_wdata : ∀ (a : BitVec 3) (d : Byte), (hpwRead a d).wdata = d := by decide

/-- Only 0x801 is FETCH (30_encoding.md R73). -/
theorem decodeHpw_eq_fetch_iff : ∀ w : HpwWord, decodeHpw w = .wrCmdFetch ↔ w = 0x801#12 := by decide

theorem decodeHpw_write (a : BitVec 3) (d : Byte) : decodeHpw (hpwWrite a d) = decodeWrite a d := by
  simp [decodeHpw, hpwWrite_we, hpwWrite_addr, hpwWrite_wdata]

theorem decodeHpw_read (a : BitVec 3) (d : Byte) : decodeHpw (hpwRead a d) = decodeRead a d := by
  simp [decodeHpw, hpwRead_we, hpwRead_addr, hpwRead_wdata]

theorem decodeCmd_reserved {d : Byte} (h : reservedCmdValue d = true) : decodeCmd d = .reservedCmd d := by
  simp [reservedCmdValue] at h
  simp [decodeCmd, h]

/-- The container bytes of a host word give the word back. -/
theorem decodeBytes_hpw : ∀ (w : HpwWord) (rest : List Byte),
    decodeBytes .hpw ((EncWord.hpw w).bytes ++ rest) = .ok (decodeHpw w, rest) := by
  have h : ∀ w : HpwWord, (0#4 ++ w.extractLsb' 8 4 : Byte).extractLsb' 4 4 = 0#4 ∧
      ((0#4 ++ w.extractLsb' 8 4 : Byte).extractLsb' 0 4 ++ w.extractLsb' 0 8 : HpwWord) = w := by decide
  intro w rest
  show (if (0#4 ++ w.extractLsb' 8 4 : Byte).extractLsb' 4 4 = 0#4
    then Except.ok (decodeHpw ((0#4 ++ w.extractLsb' 8 4 : Byte).extractLsb' 0 4 ++ w.extractLsb' 0 8), rest)
    else Except.error (DecodeError.padNotZero .hpw)) = _
  rw [if_pos (h w).1, (h w).2]

/-- The container byte of a micro-operation code gives the code back. -/
theorem decodeBytes_uop : ∀ (u : UopCode) (rest : List Byte),
    decodeBytes .uop ((EncWord.uop u).bytes ++ rest) = .ok (decodeUop u, rest) := by
  have h : ∀ u : UopCode, (0#4 ++ u : Byte).extractLsb' 4 4 = 0#4 ∧ (0#4 ++ u : Byte).extractLsb' 0 4 = u := by decide
  intro u rest
  show (if (0#4 ++ u : Byte).extractLsb' 4 4 = 0#4
    then Except.ok (decodeUop ((0#4 ++ u : Byte).extractLsb' 0 4), rest)
    else Except.error (DecodeError.padNotZero .uop)) = _
  rw [if_pos (h u).1, (h u).2]

namespace Machine

/-- Bit `i` after a shift: the new bit at the bottom, every other one place up. -/
theorem getLsbD_shiftIn (p : BitVec 40) (b : Bool) (i : Nat) :
    (shiftIn p b).getLsbD i = if i = 0 then b else decide (i < 40) && p.getLsbD (i - 1) := by
  unfold shiftIn
  change (p.extractLsb' 0 39 ++ BitVec.ofBool b : BitVec (39 + 1)).getLsbD i = _
  rw [BitVec.getLsbD_append]
  rcases i with _ | i
  · simp
  · by_cases h : i < 39 <;> simp [h] <;> intros <;> omega

theorem toNat_append_bytes {n : Nat} (x : BitVec n) (y : Byte) : (x ++ y).toNat = x.toNat * 256 + y.toNat := by
  rw [BitVec.toNat_append, ← Nat.shiftLeft_add_eq_or_of_lt y.isLt, Nat.shiftLeft_eq]

/-- The number that five bytes in a row are. -/
theorem toNat_frame (b0 b1 b2 b3 b4 : Byte) :
    (b0 ++ b1 ++ b2 ++ b3 ++ b4 : BitVec 40).toNat =
      (((b0.toNat * 256 + b1.toNat) * 256 + b2.toNat) * 256 + b3.toNat) * 256 + b4.toNat := by
  simp only [toNat_append_bytes]

/-- The bytes of a frame (10_state.md R23). -/
theorem payloadBytes_frame (b0 b1 b2 b3 b4 : Byte) :
    payloadByte0 (b0 ++ b1 ++ b2 ++ b3 ++ b4) = b0 ∧ payloadByte1 (b0 ++ b1 ++ b2 ++ b3 ++ b4) = b1 ∧
    payloadByte2 (b0 ++ b1 ++ b2 ++ b3 ++ b4) = b2 ∧ payloadByte3 (b0 ++ b1 ++ b2 ++ b3 ++ b4) = b3 ∧
    payloadByte4 (b0 ++ b1 ++ b2 ++ b3 ++ b4) = b4 := by
  refine ⟨?_, ?_, ?_, ?_, ?_⟩ <;>
  · apply BitVec.eq_of_toNat_eq
    simp only [payloadByte0, payloadByte1, payloadByte2, payloadByte3, payloadByte4, BitVec.extractLsb'_toNat,
      toNat_frame, Nat.shiftRight_eq_div_pow]
    omega

/-- A payload is its five bytes. -/
theorem payload_split (p : BitVec 40) :
    p = payloadByte0 p ++ payloadByte1 p ++ payloadByte2 p ++ payloadByte3 p ++ payloadByte4 p := by
  apply BitVec.eq_of_toNat_eq
  rw [toNat_frame]
  simp only [payloadByte0, payloadByte1, payloadByte2, payloadByte3, payloadByte4, BitVec.extractLsb'_toNat,
    Nat.shiftRight_eq_div_pow]
  omega

theorem checksum_toNat (b0 b1 b2 b3 : Byte) :
    (checksum b0 b1 b2 b3).toNat = (b0.toNat + b1.toNat + b2.toNat + b3.toNat) % 256 := by
  simp [checksum]

theorem checksum_eq_iff (b0 b1 b2 b3 b4 : Byte) :
    checksum b0 b1 b2 b3 = b4 ↔ (b0.toNat + b1.toNat + b2.toNat + b3.toNat) % 256 = b4.toNat := by
  rw [← BitVec.toNat_inj, checksum_toNat]

/-- PC1 keeps the windows apart, so a width in the bit-1 window is in no other (00_scope.md R8). -/
theorem legal_windows {c : Config} (h : c.legal = true) :
    c.w0Min ≤ c.w0Max ∧ c.w0Max < c.w1Min ∧ c.w1Min ≤ c.w1Max := by
  simp [Config.legal, Config.pc1] at h
  omega

/-- PC4 (00_scope.md R8). -/
theorem legal_running {c : Config} (h : c.legal = true) :
    c.running.eval c.coarseA c.coarseB = true ∧ c.running.eval c.fineA c.fineB = true := by
  simp [Config.legal, Config.pc4] at h
  exact h.1.2

/-- PC2 and PC3: no phase's count reaches the counter's width (00_scope.md R8). -/
theorem legal_bounds {c : Config} (h : c.legal = true) :
    c.tReq < 2 ^ c.cntW ∧ ∀ p : Phase, p.polled = true → p.bound c + 1 < 2 ^ c.cntW := by
  simp [Config.legal, Config.pc2, Config.pc3] at h
  refine ⟨by omega, fun p hp => ?_⟩
  cases p <;> simp [Phase.polled, Phase.bound] at * <;> omega

end Machine

end Sys2Proof
end

