-- ==== Sys2Proof/Laws/Ops.lean ====
section
/-! SUPPORT. For each shared operation what it answers, forward (when it answers a next state, and which) and backward (what a next
state says); callers cite these and do not unfold the operation. -/

namespace Sys2Proof.Machine

/-! ## The context operations -/

theorem opAcquire_of_free {s : State} (h : s.cur.ctx = .free) :
    opAcquire s = .next ((s.stage fun r =>
      { r with snapA := s.cur.tccra, snapB := s.cur.tccrb, snapM := s.cur.timsk, ctx := .held, regime := .none }).emit
        .acquire) := by
  simp [opAcquire, h]

theorem opAcquire_of_held {s : State} (h : s.cur.ctx = .held) : opAcquire s = .fault .nestedAcquire := by
  simp [opAcquire, h]

theorem opConfigure_of_held {s : State} (u : Uop) (a b : TReg) (g : Regime) (h : s.nxt.ctx = .held) :
    opConfigure u a b g s =
      .next (((s.stage fun r => { r with tccra := a, tccrb := b, timsk := s.cfg.imsk, regime := g }).stageTcnt 0).emit
        u) := by
  simp [opConfigure, h]

theorem opConfigure_of_free {s : State} (u : Uop) (a b : TReg) (g : Regime) (h : s.nxt.ctx = .free) :
    opConfigure u a b g s = .fault .configureWithoutAcquire := by
  simp [opConfigure, h]

theorem opRelease_of_held {s : State} (h : s.cur.ctx = .held) :
    opRelease s = .next ((s.stage fun r =>
      { r with tccra := s.cur.snapA, tccrb := s.cur.snapB, timsk := s.cur.snapM, ctx := .free, regime := .none }).emit
        .release) := by
  simp [opRelease, h]

theorem opRelease_of_free {s : State} (h : s.cur.ctx = .free) : opRelease s = .fault .releaseWithoutAcquire := by
  simp [opRelease, h]

theorem ctx_cases (c : Ctx) : c = .free ∨ c = .held := by
  cases c <;> simp

/-! ## Run start, exits and entries -/

/-- A run's start with the context free (42_protocol_decoder.md R143). -/
theorem runStart_of_free {s : State} (h : s.cur.ctx = .free) :
    runStart s = .next { s with
      nxt := { s.nxt with
        snapA := s.cur.tccra, snapB := s.cur.tccrb, snapM := s.cur.timsk, ctx := .held, regime := .coarse
        tccra := s.cfg.coarseA, tccrb := s.cfg.coarseB, timsk := s.cfg.imsk, tcnt := 0
        lineOe := true, lineOut := false, payload := 0, bitcnt := 0
        busy := true, done := false, ok := false, reason := .none, phase := .requestStart }
      cntWr := true
      history := s.history ++ [.uop s.cycle .acquire, .uop s.cycle .cfgCoarse, .uop s.cycle .dirOut,
        .uop s.cycle .lineLow] } := by
  simp [runStart, opAcquire_of_free h, opCfgCoarse, opConfigure, opLineLow, opDirOut, State.stage, State.emit,
    State.stageTcnt, statusStart]

theorem runStart_of_held {s : State} (h : s.cur.ctx = .held) : runStart s = .fault .nestedAcquire := by
  simp [runStart, opAcquire_of_held h]

/-- The failure exit with the context held (60_exceptions.md R208). -/
theorem failureExit_of_held {s : State} (reason : Reason) (h : s.cur.ctx = .held) :
    failureExit reason s = .next { s with
      nxt := { s.nxt with
        tccra := s.cur.snapA, tccrb := s.cur.snapB, timsk := s.cur.snapM, ctx := .free, regime := .none
        reason := reason, ok := false, done := true, busy := false, phase := .idle }
      history := s.history ++ [.uop s.cycle .release] } := by
  simp [failureExit, opRelease_of_held h, State.stage, State.emit, statusFailure]

theorem failureExit_of_free {s : State} (reason : Reason) (h : s.cur.ctx = .free) :
    failureExit reason s = .fault .releaseWithoutAcquire := by
  simp [failureExit, opRelease_of_free h]

/-- The success exit with the context held (60 R209). -/
theorem successExit_of_held {s : State} (b0 b1 b2 b3 : Byte) (h : s.cur.ctx = .held) :
    successExit b0 b1 b2 b3 s = .next { s with
      nxt := { s.nxt with
        tccra := s.cur.snapA, tccrb := s.cur.snapB, timsk := s.cur.snapM, ctx := .free, regime := .none
        reason := .none, ok := true, done := true, busy := false, phase := .idle
        data0 := b0, data1 := b1, data2 := b2, data3 := b3 }
      history := s.history ++ [.uop s.cycle .release] } := by
  simp [successExit, opRelease_of_held h, State.stage, State.emit, statusSuccess]

theorem successExit_of_free {s : State} (b0 b1 b2 b3 : Byte) (h : s.cur.ctx = .free) :
    successExit b0 b1 b2 b3 s = .fault .releaseWithoutAcquire := by
  simp [successExit, opRelease_of_free h]

/-- The entry of a phase with the context held (40_timer_context.md R115). -/
theorem enterPhase_of_held {s : State} (p : Phase) (h : s.nxt.ctx = .held) :
    enterPhase p s = .next { s with
      nxt := { s.nxt with
        tccra := s.cfg.fineA, tccrb := s.cfg.fineB, timsk := s.cfg.imsk, regime := .fine, tcnt := 0, phase := p }
      cntWr := true
      history := s.history ++ [.uop s.cycle .cfgFine] } := by
  simp [enterPhase, opCfgFine, opConfigure_of_held _ _ _ _ h, State.stage, State.emit, State.stageTcnt]

theorem enterPhase_of_free {s : State} (p : Phase) (h : s.nxt.ctx = .free) :
    enterPhase p s = .fault .configureWithoutAcquire := by
  simp [enterPhase, opCfgFine, opConfigure_of_free _ _ _ _ h]

/-! ## Other agents' writes -/

/-- Other agents' writes touch the staged timer registers and the mark of a TCNT write, and nothing else. -/
theorem applyAgentWrites_frame (ws : List AgentWrite) : ∀ s : State,
    ∃ a b m n wr, applyAgentWrites s ws =
      { s with nxt := { s.nxt with tccra := a, tccrb := b, timsk := m, tcnt := n }, cntWr := wr } := by
  induction ws with
  | nil => exact fun s => ⟨s.nxt.tccra, s.nxt.tccrb, s.nxt.timsk, s.nxt.tcnt, s.cntWr, rfl⟩
  | cons w ws ih =>
    intro s
    obtain ⟨a, b, m, n, wr, h⟩ := ih (applyAgentWrite s w)
    refine ⟨a, b, m, n, wr, ?_⟩
    show applyAgentWrites (applyAgentWrite s w) ws = _
    rw [h]
    cases w <;> rfl

/-- The staged TCNT after other agents' writes: the last write to it, in P_CNT_W bits (40 R111). -/
theorem applyAgentWrites_tcnt (ws : List AgentWrite) : ∀ s : State,
    ((applyAgentWrites s ws).cntWr = (s.cntWr || (lastTcntWrite ws).isSome)) ∧
    (applyAgentWrites s ws).nxt.tcnt =
      match lastTcntWrite ws with
      | some v => v % 2 ^ s.cfg.cntW
      | none => s.nxt.tcnt := by
  induction ws with
  | nil => intro s; simp [applyAgentWrites, lastTcntWrite]
  | cons w ws ih =>
    intro s
    have h := ih (applyAgentWrite s w)
    show ((applyAgentWrites (applyAgentWrite s w) ws).cntWr = _) ∧
      (applyAgentWrites (applyAgentWrite s w) ws).nxt.tcnt = _
    cases w with
    | tccra v => simpa [lastTcntWrite, applyAgentWrite] using h
    | tccrb v => simpa [lastTcntWrite, applyAgentWrite] using h
    | timsk v => simpa [lastTcntWrite, applyAgentWrite] using h
    | tcnt v =>
      rw [h.1, h.2]
      cases hl : lastTcntWrite ws <;> simp [lastTcntWrite, applyAgentWrite, hl]

/-! ## The host port -/

/-- A host word decodes to a host transaction: its meaning is FETCH's, or touches only the signals and REFUSED. -/
theorem exec_decodeHpw (w : HpwWord) (s : State) :
    (w = 0x801#12 ∧ exec (decodeHpw w) s = execWrCmdFetch s) ∨
    (w ≠ 0x801#12 ∧ ∃ sg rf, exec (decodeHpw w) s = .next { s with sig := sg, refused := rf } ∧
      (∀ n, s.refused = some n → rf = some n) ∧ ((∀ d, decodeHpw w ≠ .reservedCmd d) → rf = s.refused)) := by
  by_cases hw : w = 0x801#12
  · exact .inl ⟨hw, by subst hw; rfl⟩
  · refine .inr ⟨hw, ?_⟩
    have hf : decodeHpw w ≠ .wrCmdFetch := fun h => hw ((decodeHpw_eq_fetch_iff w).1 h)
    unfold decodeHpw decodeWrite decodeRead decodeCmd at *
    split at hf <;> split at hf <;> (try split at hf) <;> (try split at hf) <;> rename_i h <;>
      first
      | exact absurd rfl hf
      | (simp only [*, exec, if_true, if_false]
         refine ⟨_, _, rfl, ?_, ?_⟩
         · intro n hn; simp [hn]
         · intro hd; first | rfl | exact absurd rfl (hd _))

end Sys2Proof.Machine
end

