-- ==== Sys2Proof/Laws/Cycle.lean ====
section
/-! SUPPORT. Said once: what one cycle can do. `CycleCase` lists the cases of a cycle the decoder runs by its own rules, each with the
micro-operations it issues and the registers it leaves; `step_ordinary` says that every such step is one of them. -/

namespace Sys2Proof.Machine

/-! ## Small facts -/

theorem hostFetches_iff (s : State) : s.hostFetches = true ↔ s.now.host = some 0x801#12 := by
  unfold State.hostFetches
  cases h : s.now.host with
  | none => simp
  | some w => simp [decodeHpw_eq_fetch_iff]

theorem owns_iff (s : State) : s.owns = true ↔ s.cur.phase ≠ .idle ∨ s.hostFetches = true := by
  simp [State.owns]

theorem step_of_live {s : State} (h : s.live) :
    step s = match s.now.rst with
      | .run => runCycle s
      | .system => .next (systemResetCycle s)
      | .block => blockResetCycle s := by
  unfold step cycleStep
  rw [h.1]
  exact if_pos h.2

theorem live_of_step {s t : State} (h : step s = .next t) : s.live := by
  unfold step cycleStep at h
  split at h
  · simp at h
  · rename_i hf
    split at h
    · exact ⟨hf, ‹_›⟩
    · simp at h

/-- The end of a cycle as a record. -/
theorem endCycle_eq (s : State) : s.endCycle =
    { s with
      cur := { s.nxt with tcnt := s.tcntNext }, nxt := { s.nxt with tcnt := s.tcntNext }, cntWr := false
      inputs := s.inputs.tail, cycle := s.cycle + 1 } := rfl

/-- The registers a cycle's other agents leave staged, as the cycle ends. -/
def agentRegs (s : State) : Regs :=
  let a := applyAgentWrites s.beginCycle s.now.agentWr
  { a.nxt with tcnt := a.tcntNext }

/-- Other agents touch only the timer's registers. -/
theorem agentRegs_frame (s : State) :
    ∃ a b m n, agentRegs s = { s.cur with tccra := a, tccrb := b, timsk := m, tcnt := n } := by
  obtain ⟨a, b, m, n, wr, h⟩ := applyAgentWrites_frame s.now.agentWr s.beginCycle
  exact ⟨a, b, m, (applyAgentWrites s.beginCycle s.now.agentWr).tcntNext, by simp [agentRegs, h]⟩

theorem agentRegs_nil {s : State} (h : s.now.agentWr = []) :
    agentRegs s = { s.cur with tcnt := s.counted } := by
  simp [agentRegs, h, applyAgentWrites, State.tcntNext, State.counted]

/-- 40 R111 for a cycle whose decoder does not write TCNT. -/
theorem agentRegs_tcnt (s : State) :
    (agentRegs s).tcnt = match lastTcntWrite s.now.agentWr with
      | some v => v % 2 ^ s.cfg.cntW
      | none => s.counted := by
  have h := applyAgentWrites_tcnt s.now.agentWr s.beginCycle
  obtain ⟨a, b, m, n, wr, hf⟩ := applyAgentWrites_frame s.now.agentWr s.beginCycle
  show State.tcntNext (applyAgentWrites s.beginCycle s.now.agentWr) = _
  unfold State.tcntNext
  rw [h.1, h.2]
  have ht : (applyAgentWrites s.beginCycle s.now.agentWr).ticks = s.ticks ∧
      (applyAgentWrites s.beginCycle s.now.agentWr).cur = s.cur ∧
      (applyAgentWrites s.beginCycle s.now.agentWr).cfg = s.cfg := by
    rw [hf]
    exact ⟨rfl, rfl, rfl⟩
  rw [ht.1, ht.2.1, ht.2.2]
  cases lastTcntWrite s.now.agentWr <;> simp [State.counted]

/-! ## The cases of a cycle -/

/-- A cycle without reset or trace in state `s` issues the micro-operations `us` and leaves the registers `r`. -/
inductive CycleCase (s : State) : List Uop → Regs → Prop where
  /-- IDLE without a FETCH (42 R142). -/
  | idle (hp : s.cur.phase = .idle) (hf : s.hostFetches = false) : CycleCase s [] (agentRegs s)
  /-- An accepted FETCH (42 R143). -/
  | fetch (hp : s.cur.phase = .idle) (hf : s.hostFetches = true) (ha : s.now.agentWr = []) (hc : s.cur.ctx = .free) :
    CycleCase s [.acquire, .cfgCoarse, .dirOut, .lineLow]
      { s.cur with
        snapA := s.cur.tccra, snapB := s.cur.tccrb, snapM := s.cur.timsk, ctx := .held, regime := .coarse
        tccra := s.cfg.coarseA, tccrb := s.cfg.coarseB, timsk := s.cfg.imsk, tcnt := 0
        lineOe := true, lineOut := false, payload := 0, bitcnt := 0
        busy := true, done := false, ok := false, reason := .none, phase := .requestStart }
  /-- The request hold goes on (42 R144). -/
  | hold (hp : s.cur.phase = .requestStart) (hf : s.hostFetches = false) (ha : s.now.agentWr = [])
    (ht : s.cur.tcnt < s.cfg.tReq) : CycleCase s [.elapsed] { s.cur with tcnt := s.counted }
  /-- The request hold ends (42 R144). -/
  | holdEnd (hp : s.cur.phase = .requestStart) (hf : s.hostFetches = false) (ha : s.now.agentWr = [])
    (hc : s.cur.ctx = .held) (ht : s.cfg.tReq ≤ s.cur.tcnt) :
    CycleCase s [.elapsed, .lineHigh, .dirIn, .cfgFine]
      (afterFine s .waitResponse { s.cur with lineOut := true, lineOe := false })
  /-- A polled phase waits (42 R141). -/
  | wait (hp : s.cur.phase.polled = true) (hf : s.hostFetches = false) (ha : s.now.agentWr = [])
    (hl : s.lineSample ≠ s.cur.phase.exitLevel) (ht : s.cur.tcnt ≤ s.cur.phase.bound s.cfg) :
    CycleCase s [.lineRead, .elapsed] { s.cur with tcnt := s.counted }
  /-- A polled phase times out (42 R141, 60 R201-R205). -/
  | timeout (hp : s.cur.phase.polled = true) (hf : s.hostFetches = false) (ha : s.now.agentWr = [])
    (hc : s.cur.ctx = .held) (hl : s.lineSample ≠ s.cur.phase.exitLevel)
    (ht : s.cur.phase.bound s.cfg < s.cur.tcnt) :
    CycleCase s [.lineRead, .elapsed, .release] (afterFailure s s.cur.phase.timeout)
  /-- WAIT_RESPONSE, WAIT_PREAMBLE_LOW, WAIT_PREAMBLE_HIGH and BIT_LOW pass on the line (42 R145-R148). -/
  | pass (p : Phase) (hp : (s.cur.phase, p) ∈ [(.waitResponse, .waitPreambleLow), (.waitPreambleLow, .waitPreambleHigh),
      (.waitPreambleHigh, .bitLow), (.bitLow, .bitHigh)]) (hf : s.hostFetches = false) (ha : s.now.agentWr = [])
    (hc : s.cur.ctx = .held) (hl : s.lineSample = s.cur.phase.exitLevel) :
    CycleCase s [.lineRead, .elapsed, .cfgFine] (afterFine s p s.cur)
  /-- BIT_HIGH accepts a bit before the 40th (42 R151). -/
  | bit (b : Bool) (hp : s.cur.phase = .bitHigh) (hf : s.hostFetches = false) (ha : s.now.agentWr = [])
    (hc : s.cur.ctx = .held) (hl : s.lineSample = false)
    (hw : classify s.cfg s.cur.tcnt = if b then .bit1 else .bit0) (hn : s.cur.bitcnt + 1 ≠ 40#6) :
    CycleCase s [.lineRead, .elapsed, .cfgFine]
      (afterFine s .bitLow { s.cur with payload := shiftIn s.cur.payload b, bitcnt := s.cur.bitcnt + 1 })
  /-- BIT_HIGH accepts the 40th bit (42 R151). -/
  | lastBit (b : Bool) (hp : s.cur.phase = .bitHigh) (hf : s.hostFetches = false) (ha : s.now.agentWr = [])
    (hl : s.lineSample = false)
    (hw : classify s.cfg s.cur.tcnt = if b then .bit1 else .bit0) (hn : s.cur.bitcnt + 1 = 40#6) :
    CycleCase s [.lineRead, .elapsed]
      { s.cur with
        payload := shiftIn s.cur.payload b, bitcnt := s.cur.bitcnt + 1, phase := .verify, tcnt := s.counted }
  /-- BIT_HIGH rejects a width (42 R151, 60 R206). -/
  | invalid (hp : s.cur.phase = .bitHigh) (hf : s.hostFetches = false) (ha : s.now.agentWr = [])
    (hc : s.cur.ctx = .held) (hl : s.lineSample = false) (hw : classify s.cfg s.cur.tcnt = .invalid) :
    CycleCase s [.lineRead, .elapsed, .release] (afterFailure s .invalidBitTiming)
  /-- VERIFY finds the checksum right (42 R152, 60 R209). -/
  | success (hp : s.cur.phase = .verify) (hf : s.hostFetches = false) (ha : s.now.agentWr = [])
    (hc : s.cur.ctx = .held)
    (hs : checksum (payloadByte0 s.cur.payload) (payloadByte1 s.cur.payload) (payloadByte2 s.cur.payload)
      (payloadByte3 s.cur.payload) = payloadByte4 s.cur.payload) :
    CycleCase s [.release]
      { afterFailure s .none with
        ok := true, data0 := payloadByte0 s.cur.payload, data1 := payloadByte1 s.cur.payload
        data2 := payloadByte2 s.cur.payload, data3 := payloadByte3 s.cur.payload }
  /-- VERIFY finds it wrong (42 R152, 60 R207). -/
  | mismatch (hp : s.cur.phase = .verify) (hf : s.hostFetches = false) (ha : s.now.agentWr = [])
    (hc : s.cur.ctx = .held)
    (hs : checksum (payloadByte0 s.cur.payload) (payloadByte1 s.cur.payload) (payloadByte2 s.cur.payload)
      (payloadByte3 s.cur.payload) ≠ payloadByte4 s.cur.payload) :
    CycleCase s [.release] (afterFailure s .checksumMismatch)

/-- What an ordinary step leaves beside the registers: the bookkeeping. -/
structure Landed (s : State) (us : List Uop) (t : State) : Prop where
  cfg : t.cfg = s.cfg
  nxt : t.nxt = t.cur
  cntWr : t.cntWr = false
  inputs : t.inputs = s.inputs.tail
  cycle : t.cycle = s.cycle + 1
  faulted : t.faulted = s.faulted
  refused : ∀ n, s.refused = some n → t.refused = some n
  unmarked : s.dutyCommand → t.refused = s.refused
  history : t.history = s.history ++ s.hostRecord ++ us.map (Event.uop s.cycle)

/-- The state in which the phase rule of a decoder cycle runs: the cycle has begun and the host transaction, no FETCH, is done. -/
structure Begun (s a : State) : Prop where
  cfg : a.cfg = s.cfg
  cur : a.cur = s.cur
  inputs : a.inputs = s.inputs
  cycle : a.cycle = s.cycle
  faulted : a.faulted = s.faulted
  refused : ∀ n, s.refused = some n → a.refused = some n
  unmarked : s.dutyCommand → a.refused = s.refused

theorem Begun.now {s a : State} (h : Begun s a) : a.now = s.now := by
  simp [State.now, h.inputs, h.cycle]

theorem Begun.lineSample {s a : State} (h : Begun s a) : a.lineSample = s.lineSample := by
  simp [State.lineSample, h.now, h.cur]

theorem Begun.ticks {s a : State} (h : Begun s a) : a.ticks = s.ticks := by
  simp [State.ticks, State.timerRunning, h.now, h.cur, h.cfg]

/-- A host transaction that is no FETCH only begins the cycle. -/
theorem hostPort_begun {s c : State} (hc : Begun s c) (hh : c.history = s.history) (hf : s.hostFetches = false) :
    ∃ a, hostPort c = .next a ∧ a.nxt = c.nxt ∧ a.cntWr = c.cntWr ∧ Begun s a ∧ a.history = s.history ++ s.hostRecord := by
  unfold hostPort
  rw [hc.now]
  cases hw : s.now.host with
  | none => exact ⟨c, rfl, rfl, rfl, hc, by simp [hh, State.hostRecord, hw]⟩
  | some w =>
    obtain ⟨hw2, he⟩ | ⟨hw2, sg, rf, he, hr, hu⟩ := exec_decodeHpw w (c.record w)
    · have := (hostFetches_iff s).2 (by rw [hw, hw2])
      simp [hf] at this
    · exact ⟨_, he, rfl, rfl, ⟨hc.cfg, hc.cur, hc.inputs, hc.cycle, hc.faulted,
        fun n hn => hr n (hc.refused n hn), fun hd => (hu fun d => hd w d hw).trans (hc.unmarked hd)⟩, by simp [hh, hc.cycle, State.hostRecord, hw]⟩

theorem begun_beginCycle (s : State) : Begun s s.beginCycle :=
  ⟨rfl, rfl, rfl, rfl, rfl, fun _ h => h, fun _ => rfl⟩

theorem begun_agents (s : State) (ws : List AgentWrite) : Begun s (applyAgentWrites s.beginCycle ws) := by
  obtain ⟨a, b, m, n, wr, h⟩ := applyAgentWrites_frame ws s.beginCycle
  rw [h]
  exact ⟨rfl, rfl, rfl, rfl, rfl, fun _ h => h, fun _ => rfl⟩

/-- A cycle in which no other agent writes and the host does not fetch is the phase rule on the begun state. -/
theorem runCycle_alone {s : State} (ht : s.now.trace = none) (ha : s.now.agentWr = []) (hf : s.hostFetches = false) :
    ∃ a, a.nxt = s.cur ∧ a.cntWr = false ∧ (Begun s a ∧ a.history = s.history ++ s.hostRecord) ∧
      runCycle s = andThen (phaseStep a) fun b => .next b.endCycle := by
  obtain ⟨a, he, hn, hw, hb, hh⟩ := hostPort_begun (begun_beginCycle s) rfl hf
  refine ⟨a, hn, hw, ⟨hb, hh⟩, ?_⟩
  have h1 : agentWrites s.beginCycle = .next s.beginCycle := by simp [agentWrites, ha]
  have h2 : decoderPart a = phaseStep a := by simp [decoderPart, hb.now, ht]
  simp only [runCycle, h1, andThen_next, he, h2]

/-- The end of the cycle from the state a phase rule leaves. -/
theorem land {s a : State} (hb : Begun s a) (hh : a.history = s.history ++ s.hostRecord) (N : Regs) (W : Bool) (S : Signals) (us : List Uop) :
    let b : State := { a with nxt := N, cntWr := W, sig := S, history := a.history ++ us.map (Event.uop s.cycle) }
    b.endCycle.cur = { N with tcnt := if W then N.tcnt else s.counted } ∧ Landed s us b.endCycle := by
  intro b
  refine ⟨?_, hb.cfg, rfl, rfl, ?_, ?_, hb.faulted, hb.refused, hb.unmarked, ?_⟩
  · have : b.tcntNext = if W then N.tcnt else s.counted := by
      show (if W then N.tcnt else if a.ticks then (a.cur.tcnt + 1) % 2 ^ a.cfg.cntW else a.cur.tcnt) = _
      rw [hb.ticks, hb.cur, hb.cfg]
      rfl
    show { N with tcnt := b.tcntNext } = _
    rw [this]
  · show a.inputs.tail = _
    rw [hb.inputs]
  · show a.cycle + 1 = _
    rw [hb.cycle]
  · show a.history ++ us.map (Event.uop s.cycle) = _
    rw [hh]

/-- The step of a decoder cycle, from what its phase rule answers. -/
theorem step_of_phase {s a : State} (hl : s.live) (ho : s.now.ordinary)
    (hb : Begun s a ∧ a.history = s.history ++ s.hostRecord)
    (hr : runCycle s = andThen (phaseStep a) fun b => .next b.endCycle)
    {N : Regs} {W : Bool} {S : Signals} {us : List Uop}
    (hp : phaseStep a =
      .next { a with nxt := N, cntWr := W, sig := S, history := a.history ++ us.map (Event.uop s.cycle) }) :
    ∃ t, step s = .next t ∧ t.cur = { N with tcnt := if W then N.tcnt else s.counted } ∧ Landed s us t := by
  refine ⟨_, ?_, (land hb.1 hb.2 N W S us).1, (land hb.1 hb.2 N W S us).2⟩
  rw [step_of_live hl, ho.1]
  simp only [hr, hp, andThen_next]

theorem phase_polled_ne {p : Phase} (h : p.polled = true) :
    p = .waitResponse ∨ p = .waitPreambleLow ∨ p = .waitPreambleHigh ∨ p = .bitLow ∨ p = .bitHigh := by
  cases p <;> simp_all [Phase.polled]

/-- PollPhase's three ways (42 R141), as the phase rule of a polled phase takes them. -/
theorem phaseStep_polled {a : State} (hp : a.cur.phase.polled = true) :
    ∃ f : Nat → State → Res, phaseStep a =
      pollPhase a.cur.phase.exitLevel (a.cur.phase.bound a.cfg) a.cur.phase.timeout f a := by
  obtain h | h | h | h | h := phase_polled_ne hp <;> simp only [phaseStep, h] <;> exact ⟨_, rfl⟩

/-- Every case of a cycle happens: the step answers it. -/
theorem step_of_case {s : State} {us : List Uop} {r : Regs} (hl : s.live) (ho : s.now.ordinary)
    (hc : CycleCase s us r) : ∃ t, step s = .next t ∧ t.cur = r ∧ Landed s us t := by
  cases hc with
  | idle hp hf =>
    have hb := begun_agents s s.now.agentWr
    obtain ⟨a, he, hn, hw, hba, hh⟩ := hostPort_begun hb
      (by obtain ⟨x, y, m, n, wr, h⟩ := applyAgentWrites_frame s.now.agentWr s.beginCycle; rw [h]; rfl) hf
    have h1 : agentWrites s.beginCycle = .next (applyAgentWrites s.beginCycle s.now.agentWr) := by
      have ho : s.beginCycle.owns = false := by
        have : s.beginCycle.hostFetches = s.hostFetches := rfl
        simp [State.owns, this, hf, hp]
      by_cases ha : s.now.agentWr = []
      · simp [agentWrites, ha, applyAgentWrites]
      · simp [agentWrites, ha, ho]
    have h2 : decoderPart a = .next a := by simp [decoderPart, hba.now, ho.2, phaseStep, hba.cur, hp]
    refine ⟨a.endCycle, ?_, ?_, ?_⟩
    · rw [step_of_live hl, ho.1]
      simp only [runCycle, h1, andThen_next, he, h2]
    · show { a.nxt with tcnt := a.tcntNext } = agentRegs s
      have : a.tcntNext = (applyAgentWrites s.beginCycle s.now.agentWr).tcntNext := by
        simp [State.tcntNext, hn, hw, hba.ticks, hb.ticks, hba.cur, hb.cur, hba.cfg, hb.cfg]
      rw [hn, this]
      rfl
    · simpa using (land hba hh a.nxt a.cntWr a.sig []).2
  | fetch hp hf ha hc =>
    have hw := (hostFetches_iff s).1 hf
    have h1 : agentWrites s.beginCycle = .next s.beginCycle := by simp [agentWrites, ha]
    have hb : Begun s (s.beginCycle.record 0x801#12) :=
      ⟨rfl, rfl, rfl, rfl, rfl, fun _ h => h, fun _ => rfl⟩
    have h2 : hostPort s.beginCycle = runStart (s.beginCycle.record 0x801#12) := by
      have hd : decodeHpw 0x801#12 = .wrCmdFetch := by decide
      simp [hostPort, hw, hd, exec, execWrCmdFetch, hp]
    rw [runStart_of_free (by simpa using hc)] at h2
    have h3 := land hb (by simp [State.hostRecord, hw])
      { s.cur with
        snapA := s.cur.tccra, snapB := s.cur.tccrb, snapM := s.cur.timsk, ctx := .held, regime := .coarse
        tccra := s.cfg.coarseA, tccrb := s.cfg.coarseB, timsk := s.cfg.imsk, tcnt := 0
        lineOe := true, lineOut := false, payload := 0, bitcnt := 0
        busy := true, done := false, ok := false, reason := .none, phase := .requestStart }
      true (s.beginCycle.record 0x801#12).sig [.acquire, .cfgCoarse, .dirOut, .lineLow]
    refine ⟨_, ?_, h3.1, h3.2⟩
    rw [step_of_live hl, ho.1]
    simp only [runCycle, h1, andThen_next, h2]
    have hx : ∀ a : State, a.now = s.now → a.cur = s.cur → decoderPart a = .next a := by
      intro a h4 h5
      simp [decoderPart, h4, ho.2, phaseStep, h5, hp]
    rw [hx]
    all_goals rfl
  | hold hp hf ha ht =>
    obtain ⟨a, hn, hw, hbh, hr⟩ := runCycle_alone ho.2 ha hf
    have hb := hbh.1
    refine step_of_phase (N := s.cur) (W := false) (S := { a.sig with tickRes := some s.cur.tcnt }) hl ho hbh hr ?_
    simp [phaseStep, hb.cur, hp, phaseRequestStart, hb.cfg, Nat.not_le.2 ht, opElapsed, State.emit, hn, hw, hb.cycle]
  | holdEnd hp hf ha hc ht =>
    obtain ⟨a, hn, hw, hbh, hr⟩ := runCycle_alone ho.2 ha hf
    have hb := hbh.1
    refine step_of_phase (N := afterFine s .waitResponse { s.cur with lineOut := true, lineOe := false }) (W := true)
      (S := { a.sig with tickRes := some s.cur.tcnt }) hl ho hbh hr ?_
    simp [phaseStep, hb.cur, hp, phaseRequestStart, hb.cfg, ht, hc, hn, hb.cycle, enterPhase_of_held, afterFine]
  | wait hp hf ha hls ht =>
    obtain ⟨a, hn, hw, hbh, hr⟩ := runCycle_alone ho.2 ha hf
    have hb := hbh.1
    refine step_of_phase (N := s.cur) (W := false)
      (S := { a.sig with lineRes := some s.lineSample, tickRes := some s.cur.tcnt }) hl ho hbh hr ?_
    obtain ⟨f, hfz⟩ := phaseStep_polled (a := a) (by rw [hb.cur]; exact hp)
    rw [hfz, hb.cur, hb.cfg, pollPhase, hb.lineSample, if_neg hls, hb.cur, if_neg (Nat.not_lt.2 ht)]
    simp [opElapsed, opLineRead, State.emit, hb.cur, hb.cfg, hb.lineSample, hn, hw, hb.cycle]
  | timeout hp hf ha hc hls ht =>
    obtain ⟨a, hn, hw, hbh, hr⟩ := runCycle_alone ho.2 ha hf
    have hb := hbh.1
    refine step_of_phase (N := { afterFailure s s.cur.phase.timeout with tcnt := s.cur.tcnt }) (W := false)
      (S := { a.sig with lineRes := some s.lineSample, tickRes := some s.cur.tcnt }) hl ho hbh hr ?_
    obtain ⟨f, hfz⟩ := phaseStep_polled (a := a) (by rw [hb.cur]; exact hp)
    rw [hfz, hb.cur, hb.cfg, pollPhase, hb.lineSample, if_neg hls, hb.cur, if_pos ht,
      failureExit_of_held _ (by simpa [hb.cur] using hc)]
    simp [opElapsed, opLineRead, State.emit, hb.cur, hb.cfg, hb.lineSample, hn, hw, hb.cycle, afterFailure]
  | pass p hp hf ha hc hls =>
    obtain ⟨a, hn, hw, hbh, hr⟩ := runCycle_alone ho.2 ha hf
    have hb := hbh.1
    refine step_of_phase (N := afterFine s p s.cur) (W := true)
      (S := { a.sig with lineRes := some s.lineSample, tickRes := some s.cur.tcnt }) hl ho hbh hr ?_
    have hx : phaseStep a = enterPhase p (opElapsed (opLineRead a)) := by
      simp only [List.mem_cons, Prod.mk.injEq, List.not_mem_nil, or_false] at hp
      obtain ⟨h, rfl⟩ | ⟨h, rfl⟩ | ⟨h, rfl⟩ | ⟨h, rfl⟩ := hp <;>
      simp [phaseStep, hb.cur, h, phaseWaitResponse, phaseWaitPreambleLow, phaseWaitPreambleHigh, phaseBitLow,
        pollPhase, hb.lineSample, hls, Phase.exitLevel]
    rw [hx, enterPhase_of_held _ (by simp [hn, hc])]
    simp [opElapsed, opLineRead, State.emit, hb.cur, hb.lineSample, hn, hb.cycle, hb.cfg, afterFine]
  | bit b hp hf ha hc hls hw1 hn1 =>
    obtain ⟨a, hn, hw, hbh, hr⟩ := runCycle_alone ho.2 ha hf
    have hb := hbh.1
    refine step_of_phase (W := true)
      (N := afterFine s .bitLow { s.cur with payload := shiftIn s.cur.payload b, bitcnt := s.cur.bitcnt + 1 })
      (S := { a.sig with lineRes := some s.lineSample, tickRes := some s.cur.tcnt }) hl ho hbh hr ?_
    have hx : phaseStep a = acceptBit b (opElapsed (opLineRead a)) := by
      cases b <;> simp [phaseStep, hb.cur, hp, phaseBitHigh, pollPhase, hb.lineSample, hls, hb.cfg, hw1, bitAccept]
    rw [hx, acceptBit, if_neg (by simpa [hb.cur] using hn1), enterPhase_of_held _ (by simp [hn, hc])]
    simp [opElapsed, opLineRead, State.emit, State.stage, hb.cur, hb.lineSample, hn, hb.cycle, hb.cfg, afterFine]
  | lastBit b hp hf ha hls hw1 hn1 =>
    obtain ⟨a, hn, hw, hbh, hr⟩ := runCycle_alone ho.2 ha hf
    have hb := hbh.1
    refine step_of_phase (W := false)
      (N := { s.cur with payload := shiftIn s.cur.payload b, bitcnt := s.cur.bitcnt + 1, phase := .verify })
      (S := { a.sig with lineRes := some s.lineSample, tickRes := some s.cur.tcnt }) hl ho hbh hr ?_
    have hx : phaseStep a = acceptBit b (opElapsed (opLineRead a)) := by
      cases b <;> simp [phaseStep, hb.cur, hp, phaseBitHigh, pollPhase, hb.lineSample, hls, hb.cfg, hw1, bitAccept]
    rw [hx, acceptBit, if_pos (by simpa [hb.cur] using hn1)]
    simp [opElapsed, opLineRead, State.emit, State.stage, hb.cur, hb.lineSample, hn, hb.cycle, hw]
  | invalid hp hf ha hc hls hw1 =>
    obtain ⟨a, hn, hw, hbh, hr⟩ := runCycle_alone ho.2 ha hf
    have hb := hbh.1
    refine step_of_phase (N := { afterFailure s .invalidBitTiming with tcnt := s.cur.tcnt }) (W := false)
      (S := { a.sig with lineRes := some s.lineSample, tickRes := some s.cur.tcnt }) hl ho hbh hr ?_
    have hx : phaseStep a = failureExit .invalidBitTiming (opElapsed (opLineRead a)) := by
      simp [phaseStep, hb.cur, hp, phaseBitHigh, pollPhase, hb.lineSample, hls, hb.cfg, hw1, bitAccept]
    rw [hx, failureExit_of_held _ (by simpa [hb.cur] using hc)]
    simp [opElapsed, opLineRead, State.emit, hb.cur, hb.lineSample, hn, hw, hb.cycle, afterFailure]
  | success hp hf ha hc hs =>
    obtain ⟨a, hn, hw, hbh, hr⟩ := runCycle_alone ho.2 ha hf
    have hb := hbh.1
    refine step_of_phase (W := false) (S := a.sig)
      (N := { afterFailure s .none with
        ok := true, data0 := payloadByte0 s.cur.payload, data1 := payloadByte1 s.cur.payload
        data2 := payloadByte2 s.cur.payload, data3 := payloadByte3 s.cur.payload, tcnt := s.cur.tcnt }) hl ho hbh hr ?_
    simp only [phaseStep, hb.cur, hp, phaseVerify, if_pos hs]
    rw [successExit_of_held _ _ _ _ (by simpa [hb.cur] using hc)]
    simp [hb.cur, hn, hw, hb.cycle, afterFailure]
  | mismatch hp hf ha hc hs =>
    obtain ⟨a, hn, hw, hbh, hr⟩ := runCycle_alone ho.2 ha hf
    have hb := hbh.1
    refine step_of_phase (W := false) (S := a.sig)
      (N := { afterFailure s .checksumMismatch with tcnt := s.cur.tcnt }) hl ho hbh hr ?_
    simp only [phaseStep, hb.cur, hp, phaseVerify, if_neg hs]
    rw [failureExit_of_held _ (by simpa [hb.cur] using hc)]
    simp [hb.cur, hn, hw, hb.cycle, afterFailure]

/-! ## Every ordinary step is one of the cases -/

theorem agentWr_nil_of_step {s t : State} (ho : s.now.ordinary) (h : step s = .next t) (hw : s.owns = true) :
    s.now.agentWr = [] := by
  by_contra hne
  have ha : agentWrites s.beginCycle = .fault .timerOwnershipViolation := by
    have : s.beginCycle.owns = s.owns := rfl
    simp [agentWrites, hne, this, hw]
  rw [step_of_live (live_of_step h), ho.1] at h
  simp [runCycle, ha] at h

/-- A FETCH outside IDLE has no next state (43 R181). -/
theorem fetch_busy_faults {s t : State} (ho : s.now.ordinary) (hf : s.hostFetches = true) (hp : s.cur.phase ≠ .idle)
    (h : step s = .next t) : False := by
  have hw := (hostFetches_iff s).1 hf
  have hd : decodeHpw 0x801#12 = .wrCmdFetch := by decide
  have ha := agentWr_nil_of_step ho h ((owns_iff s).2 (.inr hf))
  have h1 : agentWrites s.beginCycle = .next s.beginCycle := by simp [agentWrites, ha]
  rw [step_of_live (live_of_step h), ho.1] at h
  simp [runCycle, h1, hostPort, hw, hd, exec, execWrCmdFetch, hp] at h

/-- A FETCH with the context held has no next state (40 R100). -/
theorem fetch_held_faults {s t : State} (ho : s.now.ordinary) (hf : s.hostFetches = true) (hp : s.cur.phase = .idle)
    (hc : s.cur.ctx = .held) (h : step s = .next t) : False := by
  have hw := (hostFetches_iff s).1 hf
  have hd : decodeHpw 0x801#12 = .wrCmdFetch := by decide
  have ha := agentWr_nil_of_step ho h ((owns_iff s).2 (.inr hf))
  have h1 : agentWrites s.beginCycle = .next s.beginCycle := by simp [agentWrites, ha]
  rw [step_of_live (live_of_step h), ho.1] at h
  simp [runCycle, h1, hostPort, hw, hd, exec, execWrCmdFetch, hp,
    runStart_of_held (s := s.beginCycle.record 0x801#12) (by simpa using hc)] at h

/-- In a run's cycle, the phase rule that needs the context faults without it. -/
theorem ctx_held_of_step {s t : State} (ho : s.now.ordinary) (hf : s.hostFetches = false) (ha : s.now.agentWr = [])
    (h : step s = .next t)
    (hx : ∀ a, Begun s a → a.nxt = s.cur → s.cur.ctx = .free → ∃ f, phaseStep a = .fault f) : s.cur.ctx = .held := by
  obtain ⟨a, hn, -, ⟨hb, -⟩, hr⟩ := runCycle_alone ho.2 ha hf
  obtain hc | hc := ctx_cases s.cur.ctx
  · obtain ⟨f, hff⟩ := hx a hb hn hc
    rw [step_of_live (live_of_step h), ho.1] at h
    simp [hr, hff] at h
  · exact hc

theorem phase_kinds (p : Phase) :
    p = .idle ∨ p = .requestStart ∨ p.polled = true ∨ p = .verify := by
  cases p <;> simp [Phase.polled]

/-- Every ordinary step is one of the cases of `CycleCase`. -/
theorem step_ordinary {s t : State} (ho : s.now.ordinary) (h : step s = .next t) :
    ∃ us, CycleCase s us t.cur ∧ Landed s us t := by
  have close : ∀ {us r}, CycleCase s us r → ∃ us, CycleCase s us t.cur ∧ Landed s us t := by
    intro us r hcase
    obtain ⟨t', ht, hr, hl⟩ := step_of_case (live_of_step h) ho hcase
    have : t' = t := by simpa [h] using ht.symm
    subst this
    exact ⟨us, hr ▸ hcase, hl⟩
  by_cases hf : s.hostFetches = true
  · have hp : s.cur.phase = .idle := by
      by_contra hp
      exact fetch_busy_faults ho hf hp h
    obtain hc | hc := ctx_cases s.cur.ctx
    · exact close (.fetch hp hf (agentWr_nil_of_step ho h ((owns_iff s).2 (.inr hf))) hc)
    · exact (fetch_held_faults ho hf hp hc h).elim
  · have hf : s.hostFetches = false := by simpa using hf
    by_cases hi : s.cur.phase = .idle
    · exact close (.idle hi hf)
    have ha := agentWr_nil_of_step ho h ((owns_iff s).2 (.inl hi))
    obtain hp | hp | hp | hp := phase_kinds s.cur.phase
    · exact (hi hp).elim
    · by_cases ht : s.cur.tcnt < s.cfg.tReq
      · exact close (.hold hp hf ha ht)
      · refine close (.holdEnd hp hf ha (ctx_held_of_step ho hf ha h ?_) (Nat.not_lt.1 ht))
        intro a hb hn hc
        exact ⟨_, by
          rw [phaseStep, hb.cur, hp]
          simp only [phaseRequestStart, hb.cfg, hb.cur, if_pos (Nat.not_lt.1 ht)]
          exact enterPhase_of_free _ (by simp [hn, hc])⟩
    · by_cases hls : s.lineSample = s.cur.phase.exitLevel
      · have hx : ∀ p, (s.cur.phase, p) ∈ [(Phase.waitResponse, Phase.waitPreambleLow),
            (.waitPreambleLow, .waitPreambleHigh), (.waitPreambleHigh, .bitLow), (.bitLow, .bitHigh)] →
            ∃ us, CycleCase s us t.cur ∧ Landed s us t := by
          intro p hm
          refine close (.pass p hm hf ha (ctx_held_of_step ho hf ha h ?_) hls)
          intro a hb hn hc
          refine ⟨.configureWithoutAcquire, ?_⟩
          simp only [List.mem_cons, Prod.mk.injEq, List.not_mem_nil, or_false] at hm
          obtain ⟨h, rfl⟩ | ⟨h, rfl⟩ | ⟨h, rfl⟩ | ⟨h, rfl⟩ := hm <;>
          · rw [h] at hls
            simp [phaseStep, hb.cur, h, phaseWaitResponse, phaseWaitPreambleLow, phaseWaitPreambleHigh, phaseBitLow,
              pollPhase, hb.lineSample, hls, Phase.exitLevel, enterPhase_of_free, hn, hc]
        obtain hq | hq | hq | hq | hq := phase_polled_ne hp
        · exact hx .waitPreambleLow (by simp [hq])
        · exact hx .waitPreambleHigh (by simp [hq])
        · exact hx .bitLow (by simp [hq])
        · exact hx .bitHigh (by simp [hq])
        · rw [hq] at hls
          have hls : s.lineSample = false := hls
          have hbit : ∀ b : Bool, classify s.cfg s.cur.tcnt = (if b then .bit1 else .bit0) →
              ∃ us, CycleCase s us t.cur ∧ Landed s us t := by
            intro b hw1
            by_cases hn1 : s.cur.bitcnt + 1 = 40#6
            · exact close (.lastBit b hq hf ha hls hw1 hn1)
            · refine close (.bit b hq hf ha (ctx_held_of_step ho hf ha h ?_) hls hw1 hn1)
              intro a hb hn hc
              refine ⟨.configureWithoutAcquire, ?_⟩
              have hx : phaseStep a = acceptBit b (opElapsed (opLineRead a)) := by
                cases b <;>
                  simp [phaseStep, hb.cur, hq, phaseBitHigh, pollPhase, hb.lineSample, hls, hb.cfg, hw1, bitAccept]
              rw [hx, acceptBit, if_neg (by simpa [hb.cur] using hn1), enterPhase_of_free _ (by simp [hn, hc])]
          cases hw1 : classify s.cfg s.cur.tcnt with
          | bit0 => exact hbit false hw1
          | bit1 => exact hbit true hw1
          | invalid =>
            refine close (.invalid hq hf ha (ctx_held_of_step ho hf ha h ?_) hls hw1)
            intro a hb hn hc
            exact ⟨.releaseWithoutAcquire, by
              simp [phaseStep, hb.cur, hq, phaseBitHigh, pollPhase, hb.lineSample, hls, hb.cfg, hw1, bitAccept,
                failureExit_of_free, hc]⟩
      · by_cases ht : s.cur.phase.bound s.cfg < s.cur.tcnt
        · refine close (.timeout hp hf ha (ctx_held_of_step ho hf ha h ?_) hls ht)
          intro a hb hn hc
          obtain ⟨f, hfz⟩ := phaseStep_polled (a := a) (by rw [hb.cur]; exact hp)
          refine ⟨.releaseWithoutAcquire, ?_⟩
          rw [hfz, hb.cur, hb.cfg, pollPhase, hb.lineSample, if_neg hls, hb.cur, if_pos ht]
          exact failureExit_of_free _ (by simpa [hb.cur] using hc)
        · exact close (.wait hp hf ha hls (Nat.not_lt.1 ht))
    · by_cases hs : checksum (payloadByte0 s.cur.payload) (payloadByte1 s.cur.payload) (payloadByte2 s.cur.payload)
          (payloadByte3 s.cur.payload) = payloadByte4 s.cur.payload
      · refine close (.success hp hf ha (ctx_held_of_step ho hf ha h ?_) hs)
        intro a hb hn hc
        refine ⟨.releaseWithoutAcquire, ?_⟩
        simp only [phaseStep, hb.cur, hp, phaseVerify, if_pos hs]
        exact successExit_of_free _ _ _ _ (by simpa [hb.cur] using hc)
      · refine close (.mismatch hp hf ha (ctx_held_of_step ho hf ha h ?_) hs)
        intro a hb hn hc
        refine ⟨.releaseWithoutAcquire, ?_⟩
        simp only [phaseStep, hb.cur, hp, phaseVerify, if_neg hs]
        exact failureExit_of_free _ (by simpa [hb.cur] using hc)

end Sys2Proof.Machine
end

