-- ==== Sys2Proof/Laws/Frame.lean ====
section
/-! SUPPORT. What no operation within a cycle touches: the parameters, the start-of-cycle registers, the inputs, the cycle's number,
FAULTED, a REFUSED already set and the records already in the history; and what a reset cycle leaves of them. -/

namespace Sys2Proof.Machine

/-- `t` comes from `s` within one cycle. -/
structure Kept (s t : State) : Prop where
  cfg : t.cfg = s.cfg
  cur : t.cur = s.cur
  inputs : t.inputs = s.inputs
  cycle : t.cycle = s.cycle
  faulted : t.faulted = s.faulted
  refused : ∀ n, s.refused = some n → t.refused = some n
  history : ∃ l, t.history = s.history ++ l

theorem Kept.refl (s : State) : Kept s s :=
  ⟨rfl, rfl, rfl, rfl, rfl, fun _ h => h, [], by simp⟩

theorem Kept.trans {s t u : State} (h : Kept s t) (k : Kept t u) : Kept s u := by
  obtain ⟨l, hl⟩ := h.history
  obtain ⟨m, hm⟩ := k.history
  exact ⟨k.cfg.trans h.cfg, k.cur.trans h.cur, k.inputs.trans h.inputs, k.cycle.trans h.cycle,
    k.faulted.trans h.faulted, fun n hn => k.refused n (h.refused n hn), l ++ m, by simp [hm, hl]⟩

theorem Kept.now {s t : State} (h : Kept s t) : t.now = s.now := by
  simp [State.now, h.inputs, h.cycle]

theorem kept_stage (s : State) (f : Regs → Regs) : Kept s (s.stage f) :=
  ⟨rfl, rfl, rfl, rfl, rfl, fun _ h => h, [], by simp⟩

theorem kept_emit (s : State) (u : Uop) : Kept s (s.emit u) :=
  ⟨rfl, rfl, rfl, rfl, rfl, fun _ h => h, _, rfl⟩

theorem kept_record (s : State) (w : HpwWord) : Kept s (s.record w) :=
  ⟨rfl, rfl, rfl, rfl, rfl, fun _ h => h, _, rfl⟩

theorem kept_markRefused (s : State) (n : RefuseName) : Kept s (s.markRefused n) :=
  ⟨rfl, rfl, rfl, rfl, rfl, fun m h => by simp [State.markRefused, h], [], by simp⟩

theorem kept_agents (s : State) (ws : List AgentWrite) : Kept s (applyAgentWrites s ws) := by
  obtain ⟨a, b, m, n, wr, h⟩ := applyAgentWrites_frame ws s
  rw [h]
  exact ⟨rfl, rfl, rfl, rfl, rfl, fun _ h => h, [], by simp⟩

/-- What an outcome says, if it is a next state, of the state it came from. -/
def KeptBy (s : State) (o : Res) : Prop := ∀ t, o = .next t → Kept s t

theorem keptBy_next {s t : State} (h : Kept s t) : KeptBy s (.next t) := by
  intro u hu
  cases hu
  exact h

theorem keptBy_andThen {s : State} {o : Res} {f : State → Res} (h : KeptBy s o)
    (hf : ∀ t, Kept s t → KeptBy s (f t)) : KeptBy s (andThen o f) := by
  intro u hu
  cases o with
  | next t => exact hf t (h t rfl) u hu
  | fault r => simp at hu
  | refused r => simp at hu

theorem keptBy_acquire (s : State) : KeptBy s (opAcquire s) := by
  intro t h
  obtain hc | hc := ctx_cases s.cur.ctx
  · rw [opAcquire_of_free hc] at h
    cases h
    exact (kept_stage s _).trans (kept_emit _ _)
  · rw [opAcquire_of_held hc] at h
    simp at h

theorem keptBy_configure (u : Uop) (a b : TReg) (g : Regime) (s : State) : KeptBy s (opConfigure u a b g s) := by
  intro t h
  obtain hc | hc := ctx_cases s.nxt.ctx
  · rw [opConfigure_of_free _ _ _ _ hc] at h
    simp at h
  · rw [opConfigure_of_held _ _ _ _ hc] at h
    cases h
    exact ⟨rfl, rfl, rfl, rfl, rfl, fun _ h => h, _, rfl⟩

theorem keptBy_release (s : State) : KeptBy s (opRelease s) := by
  intro t h
  obtain hc | hc := ctx_cases s.cur.ctx
  · rw [opRelease_of_free hc] at h
    simp at h
  · rw [opRelease_of_held hc] at h
    cases h
    exact (kept_stage s _).trans (kept_emit _ _)

theorem kept_runStart (s : State) : KeptBy s (runStart s) := by
  refine keptBy_andThen (keptBy_acquire s) fun t ht => ?_
  refine keptBy_andThen (fun u hu => ht.trans (keptBy_configure _ _ _ _ t u hu)) fun u hu => keptBy_next ?_
  exact hu.trans (((kept_stage u _).trans (kept_emit _ _)).trans
    (((kept_stage _ _).trans (kept_emit _ _)).trans (kept_stage _ _)))

/-- No instruction touches what `Kept` lists. -/
theorem exec_kept (i : Instr) (s : State) : KeptBy s (exec i s) := by
  cases i with
  | wrCmdFetch =>
    intro t h
    by_cases hp : s.cur.phase = .idle
    · exact kept_runStart s t (by simpa [exec, execWrCmdFetch, hp] using h)
    · simp [exec, execWrCmdFetch, hp] at h
  | acquire => exact keptBy_acquire s
  | cfgCoarse => exact keptBy_configure _ _ _ _ s
  | cfgFine => exact keptBy_configure _ _ _ _ s
  | release => exact keptBy_release s
  | reservedCmd d => exact keptBy_next (kept_markRefused s _)
  | reservedUop u => exact keptBy_next (kept_markRefused s _)
  | _ =>
    refine keptBy_next ?_
    exact ⟨rfl, rfl, rfl, rfl, rfl, fun _ h => h, _, by first | rfl | exact (List.append_nil _).symm⟩

theorem runUops_kept (us : List UopCode) : ∀ s : State, KeptBy s (runUops us s) := by
  induction us with
  | nil => exact fun s => keptBy_next (.refl s)
  | cons u us ih =>
    exact fun s => keptBy_andThen (exec_kept _ s) fun t ht v hv => ht.trans (ih t v hv)

/-- The state when the decoder's part of a cycle runs: a step without reset passes through it. -/
theorem runCycle_parts {s t : State} (h : runCycle s = .next t) :
    ∃ a b, Kept s.beginCycle a ∧ decoderPart a = .next b ∧ t = b.endCycle := by
  unfold runCycle at h
  cases h1 : agentWrites s.beginCycle with
  | next x =>
    simp only [h1, andThen_next] at h
    cases h2 : hostPort x with
    | next y =>
      simp only [h2, andThen_next] at h
      cases h3 : decoderPart y with
      | next z =>
        simp only [h3, andThen_next] at h
        refine ⟨y, z, ?_, h3, by cases h; rfl⟩
        have hx : Kept s.beginCycle x := by
          unfold agentWrites at h1
          split at h1
          · cases h1
            exact .refl _
          · split at h1
            · simp at h1
            · cases h1
              exact kept_agents _ _
        refine hx.trans ?_
        unfold hostPort at h2
        split at h2
        · cases h2
          exact .refl _
        · exact (kept_record _ _).trans (exec_kept _ _ _ h2)
      | fault r => simp [h3] at h
      | refused r => simp [h3] at h
    | fault r => simp [h2] at h
    | refused r => simp [h2] at h
  | fault r => simp [h1] at h
  | refused r => simp [h1] at h

/-- What a reset cycle leaves beside the registers (70_reset_and_hazards.md R230): the history is empty, the marks stay. -/
structure ResetLanded (s t : State) : Prop where
  cfg : t.cfg = s.cfg
  nxt : t.nxt = t.cur
  cntWr : t.cntWr = false
  inputs : t.inputs = s.inputs.tail
  cycle : t.cycle = s.cycle + 1
  faulted : t.faulted = s.faulted
  refused : t.refused = s.refused
  history : t.history = []

theorem step_reset {s t : State} (hr : s.now.rst ≠ .run) (h : step s = .next t) : ResetLanded s t := by
  rw [step_of_live (live_of_step h)] at h
  cases hk : s.now.rst with
  | run => exact (hr hk).elim
  | system =>
    rw [hk] at h
    cases h
    exact ⟨rfl, rfl, rfl, rfl, rfl, rfl, rfl, rfl⟩
  | block =>
    simp only [hk, blockResetCycle] at h
    split at h
    · simp at h
    · cases h
      obtain ⟨a, b, m, n, wr, hag⟩ := applyAgentWrites_frame s.now.agentWr
        (s.beginCycle.clearHistory.stage (Regs.blockReset s.cfg))
      rw [hag]
      exact ⟨rfl, rfl, rfl, rfl, rfl, rfl, rfl, rfl⟩

end Sys2Proof.Machine
end

