-- ==== Sys2Proof/Laws/PerInstr.lean ====
section
/-! SUPPORT. Per instruction: the word the encoder gives a well-formed instruction matches that instruction's row of
spec/opcode_table.json (its format, `match` and `mask`), and for the two reserved rows no other row. -/

namespace Sys2Proof.Laws.EncodedWordMatchesRow

/-- The word matches the row of the instruction's constructor. RESERVED_CMD's row stands for what neither FETCH nor NOP
matches, RESERVED_UOP's for the codes 0x0 and 0xB-0xF (the table's notes, 30_encoding.md R73, R75). -/
def RowMatches : Instr → EncWord → Prop
  | .wrCmdFetch, .hpw w => w &&& 0xFFF#12 = 0x801#12
  | .wrCmdNop, .hpw w => w &&& 0xFFF#12 = 0x800#12
  | .reservedCmd _, .hpw w => w &&& 0xF00#12 = 0x800#12 ∧ w ≠ 0x800#12 ∧ w ≠ 0x801#12
  | .wrStatus _, .hpw w => w &&& 0xF00#12 = 0x900#12
  | .wrData0 _, .hpw w => w &&& 0xF00#12 = 0xA00#12
  | .wrData1 _, .hpw w => w &&& 0xF00#12 = 0xB00#12
  | .wrData2 _, .hpw w => w &&& 0xF00#12 = 0xC00#12
  | .wrData3 _, .hpw w => w &&& 0xF00#12 = 0xD00#12
  | .wrPhase _, .hpw w => w &&& 0xF00#12 = 0xE00#12
  | .wrBitcnt _, .hpw w => w &&& 0xF00#12 = 0xF00#12
  | .rdCmd _, .hpw w => w &&& 0xF00#12 = 0x000#12
  | .rdStatus _, .hpw w => w &&& 0xF00#12 = 0x100#12
  | .rdData0 _, .hpw w => w &&& 0xF00#12 = 0x200#12
  | .rdData1 _, .hpw w => w &&& 0xF00#12 = 0x300#12
  | .rdData2 _, .hpw w => w &&& 0xF00#12 = 0x400#12
  | .rdData3 _, .hpw w => w &&& 0xF00#12 = 0x500#12
  | .rdPhase _, .hpw w => w &&& 0xF00#12 = 0x600#12
  | .rdBitcnt _, .hpw w => w &&& 0xF00#12 = 0x700#12
  | .acquire, .uop u => u &&& 0xF#4 = 0x1#4
  | .cfgCoarse, .uop u => u &&& 0xF#4 = 0x2#4
  | .cfgFine, .uop u => u &&& 0xF#4 = 0x3#4
  | .elapsed, .uop u => u &&& 0xF#4 = 0x4#4
  | .release, .uop u => u &&& 0xF#4 = 0x5#4
  | .dirOut, .uop u => u &&& 0xF#4 = 0x6#4
  | .dirIn, .uop u => u &&& 0xF#4 = 0x7#4
  | .lineLow, .uop u => u &&& 0xF#4 = 0x8#4
  | .lineHigh, .uop u => u &&& 0xF#4 = 0x9#4
  | .lineRead, .uop u => u &&& 0xF#4 = 0xA#4
  | .reservedUop _, .uop u => u = 0x0#4 ∨ 0xB#4 ≤ u
  | _, _ => False

/-- The encoded word of a well-formed instruction matches its row. -/
def Statement (i : Instr) : Prop := i.wellFormed = true → RowMatches i (encode i)

theorem wrCmdFetch : Statement .wrCmdFetch := fun _ => by unfold RowMatches encode; decide

theorem wrCmdNop : Statement .wrCmdNop := fun _ => by unfold RowMatches encode; decide

theorem reservedCmd (d : Byte) : Statement (.reservedCmd d) := by
  have h : ∀ d : Byte, reservedCmdValue d = true →
      hpwWrite 0 d &&& 0xF00#12 = 0x800#12 ∧ hpwWrite 0 d ≠ 0x800#12 ∧ hpwWrite 0 d ≠ 0x801#12 := by decide
  exact h d

/-- A write's word has WE = 1 and the address in its upper bits. -/
theorem write_row : ∀ (a : BitVec 3) (d : Byte), hpwWrite a d &&& 0xF00#12 = 1#1 ++ a ++ 0x00#8 := by decide

/-- A read's word has WE = 0 and the address in its upper bits. -/
theorem read_row : ∀ (a : BitVec 3) (d : Byte), hpwRead a d &&& 0xF00#12 = 0#1 ++ a ++ 0x00#8 := by decide

theorem wrStatus (d : Byte) : Statement (.wrStatus d) := fun _ => write_row 1 d

theorem wrData0 (d : Byte) : Statement (.wrData0 d) := fun _ => write_row 2 d

theorem wrData1 (d : Byte) : Statement (.wrData1 d) := fun _ => write_row 3 d

theorem wrData2 (d : Byte) : Statement (.wrData2 d) := fun _ => write_row 4 d

theorem wrData3 (d : Byte) : Statement (.wrData3 d) := fun _ => write_row 5 d

theorem wrPhase (d : Byte) : Statement (.wrPhase d) := fun _ => write_row 6 d

theorem wrBitcnt (d : Byte) : Statement (.wrBitcnt d) := fun _ => write_row 7 d

theorem rdCmd (d : Byte) : Statement (.rdCmd d) := fun _ => read_row 0 d

theorem rdStatus (d : Byte) : Statement (.rdStatus d) := fun _ => read_row 1 d

theorem rdData0 (d : Byte) : Statement (.rdData0 d) := fun _ => read_row 2 d

theorem rdData1 (d : Byte) : Statement (.rdData1 d) := fun _ => read_row 3 d

theorem rdData2 (d : Byte) : Statement (.rdData2 d) := fun _ => read_row 4 d

theorem rdData3 (d : Byte) : Statement (.rdData3 d) := fun _ => read_row 5 d

theorem rdPhase (d : Byte) : Statement (.rdPhase d) := fun _ => read_row 6 d

theorem rdBitcnt (d : Byte) : Statement (.rdBitcnt d) := fun _ => read_row 7 d

theorem acquire : Statement .acquire := fun _ => rfl

theorem cfgCoarse : Statement .cfgCoarse := fun _ => rfl

theorem cfgFine : Statement .cfgFine := fun _ => rfl

theorem elapsed : Statement .elapsed := fun _ => rfl

theorem release : Statement .release := fun _ => rfl

theorem dirOut : Statement .dirOut := fun _ => rfl

theorem dirIn : Statement .dirIn := fun _ => rfl

theorem lineLow : Statement .lineLow := fun _ => rfl

theorem lineHigh : Statement .lineHigh := fun _ => rfl

theorem lineRead : Statement .lineRead := fun _ => rfl

theorem reservedUop (u : UopCode) : Statement (.reservedUop u) := by
  have h : ∀ u : UopCode, reservedUopCode u = true → u = 0x0#4 ∨ 0xB#4 ≤ u := by decide
  exact h u

end Sys2Proof.Laws.EncodedWordMatchesRow
end

