-- ==== Sys2Proof/Laws/Run.lean ====
section
/-! SUPPORT. Runs of several steps, taken apart at either end. -/

namespace Sys2Proof.Machine

theorem run_zero (s : State) : Host.Core.run Sys2Proof.core 0 s = .next s := rfl

/-- A run that ends starts with a step that ends. -/
theorem run_succ_iff {k : Nat} {s t : State} :
    Host.Core.run Sys2Proof.core (k + 1) s = .next t ↔
      ∃ u, step s = .next u ∧ Host.Core.run Sys2Proof.core k u = .next t := by
  cases h : step s with
  | next u =>
    have h' : Sys2Proof.core.step s = .next u := h
    have e : Host.Core.run Sys2Proof.core (k + 1) s = Host.Core.run Sys2Proof.core k u := by
      simp only [Host.Core.run, h']
    rw [e]
    exact ⟨fun hr => ⟨u, rfl, hr⟩, fun ⟨v, hv, hr⟩ => by cases hv; exact hr⟩
  | fault r =>
    have h' : Sys2Proof.core.step s = .fault r := h
    have e : Host.Core.run Sys2Proof.core (k + 1) s = .fault r := by
      simp only [Host.Core.run, h']
    rw [e]
    exact ⟨fun hr => (by cases hr), fun ⟨v, hv, hr⟩ => by cases hv⟩
  | refused r =>
    have h' : Sys2Proof.core.step s = .refused r := h
    have e : Host.Core.run Sys2Proof.core (k + 1) s = .refused r := by
      simp only [Host.Core.run, h']
    rw [e]
    exact ⟨fun hr => (by cases hr), fun ⟨v, hv, hr⟩ => by cases hv⟩

/-- A run that ends ends with a step that ends. -/
theorem run_succ_last {k : Nat} : ∀ {s t : State}, Host.Core.run Sys2Proof.core (k + 1) s = .next t →
    ∃ u, Host.Core.run Sys2Proof.core k s = .next u ∧ step u = .next t := by
  induction k with
  | zero =>
    intro s t h
    obtain ⟨u, hu, hr⟩ := run_succ_iff.1 h
    cases hr
    exact ⟨s, rfl, hu⟩
  | succ k ih =>
    intro s t h
    obtain ⟨u, hu, hr⟩ := run_succ_iff.1 h
    obtain ⟨v, hv, hl⟩ := ih hr
    exact ⟨v, run_succ_iff.2 ⟨u, hu, hv⟩, hl⟩

/-- A run one step longer. -/
theorem run_succ_of {k : Nat} : ∀ {s u t : State}, Host.Core.run Sys2Proof.core k s = .next u → step u = .next t →
    Host.Core.run Sys2Proof.core (k + 1) s = .next t := by
  induction k with
  | zero =>
    intro s u t h hs
    cases h
    exact run_succ_iff.2 ⟨t, hs, rfl⟩
  | succ k ih =>
    intro s u t h hs
    obtain ⟨v, hv, hr⟩ := run_succ_iff.1 h
    exact run_succ_iff.2 ⟨v, hv, ih hr hs⟩

end Sys2Proof.Machine
end

