-- ==== Sys2Proof/Tests/Slice0.lean ====
section
/-! SUPPORT. The model's own tests: the well-formedness smoke, a word written out from the spec's encoding for every constructor,
one-step vectors taken from spec/95_test_vectors.md (each names its row), and for every statement with hypotheses a witness
that meets them. -/

namespace Sys2Proof.Tests

open Sys2Proof Sys2Proof.Machine

/-! ## Small states -/

/-- 95 section 3.1: the block after reset and the host's timer configuration 03/04/01. -/
def idleRegs : Regs := { Regs.reset Config.atReset with tccra := 0x03, tccrb := 0x04, timsk := 0x01 }

/-- The timer lent to the decoder in phase `p`, with the fine configuration and TCNT = `n`. -/
def runRegs (p : Phase) (n : Nat) : Regs :=
  { idleRegs with
    phase := p, snapA := 0x03, snapB := 0x04, snapM := 0x01, ctx := .held, regime := .fine, busy := true
    tccra := 0x00, tccrb := 0x02, timsk := 0x00, tcnt := n }

/-- The request hold with TCNT = `n`: the line is pulled low and the coarse configuration written. -/
def holdRegs (n : Nat) : Regs :=
  { runRegs .requestStart n with regime := .coarse, tccrb := 0x05, lineOe := true, lineOut := false }

/-- A cycle with the line at `l` and a tick if `k`, and nothing else. -/
def cyc (l k : Bool) : CycleIn := { rst := .run, host := none, agentWr := [], line := l, tick := k, trace := none }

/-- A cycle with a host word. -/
def hostCyc (w : HpwWord) : CycleIn := { cyc true true with host := some w }

/-- A cycle whose only micro-operation comes from a trace. -/
def uopCyc (u : UopCode) (l k : Bool) : CycleIn := { cyc l k with trace := some [u] }

/-- The machine in registers `r` with one cycle of inputs. -/
def mk (r : Regs) (i : CycleIn) : State := { State.boot Config.atReset [i] with cur := r, nxt := r }

/-- The step answers a next state that passes the check. -/
def after (s : State) (p : State → Bool) : Bool :=
  match step s with
  | .next t => p t
  | .fault _ => false
  | .refused _ => false

/-- The step faults with this name. -/
def faults (s : State) (f : Fault) : Bool :=
  match step s with
  | .next _ => false
  | .fault g => decide (g = f)
  | .refused _ => false

/-- An outcome is a next state. -/
def isNext : Res → Bool
  | .next _ => true
  | .fault _ => false
  | .refused _ => false

theorem next_of_isNext {o : Res} (h : isNext o = true) : ∃ t, o = .next t := by
  cases o with
  | next t => exact ⟨t, rfl⟩
  | fault r => cases h
  | refused r => cases h

theorem next_of_after {s : State} {p : State → Bool} (h : after s p = true) : ∃ t, step s = .next t ∧ p t = true := by
  unfold after at h
  cases hs : step s with
  | next t => exact ⟨t, rfl, by simpa [hs] using h⟩
  | fault r => simp [hs] at h
  | refused r => simp [hs] at h

theorem fault_of_faults {s : State} {f : Fault} (h : faults s f = true) : step s = .fault f := by
  unfold faults at h
  cases hs : step s with
  | next t => simp [hs] at h
  | fault g => simp [hs] at h; rw [h]
  | refused r => simp [hs] at h

/-! ## Well-formedness smoke (30_encoding.md R74-R79) -/

theorem test_reservedCmd_nop_refused : (Instr.reservedCmd 0x00#8).wellFormed = false := by decide

theorem test_reservedCmd_fetch_refused : (Instr.reservedCmd 0x01#8).wellFormed = false := by decide

theorem test_reservedUop_acquire_refused : (Instr.reservedUop 0x1#4).wellFormed = false := by decide

theorem test_reservedUop_lineRead_refused : (Instr.reservedUop 0xA#4).wellFormed = false := by decide

theorem test_literal_256_refused : (AsmLine.wr .cmd 256).wellFormed = false := by decide

theorem test_waitDone_zero_refused :
    (Pseudo.waitDone 0).wellFormed = false ∧ (Pseudo.fetchData 0).wellFormed = false := by decide

theorem test_register_name_unknown : HostReg.ofName "TCNT" = none ∧ HostReg.ofNumber 8 = none := by decide

/-! ## Decoding: every constructor by a word written out from 30_encoding.md R73 and R75 -/

theorem test_decode_writes :
    decodeHpw 0b100000000001#12 = .wrCmdFetch ∧ decodeHpw 0b100000000000#12 = .wrCmdNop ∧
    decodeHpw 0b100000000010#12 = .reservedCmd 0x02 ∧ decodeHpw 0b100011111111#12 = .reservedCmd 0xFF ∧
    decodeHpw 0b100101010101#12 = .wrStatus 0x55 ∧ decodeHpw 0b101001010101#12 = .wrData0 0x55 ∧
    decodeHpw 0b101100000001#12 = .wrData1 0x01 ∧ decodeHpw 0b110010000000#12 = .wrData2 0x80 ∧
    decodeHpw 0b110100000010#12 = .wrData3 0x02 ∧ decodeHpw 0b111001000000#12 = .wrPhase 0x40 ∧
    decodeHpw 0b111111111111#12 = .wrBitcnt 0xFF := by decide

theorem test_decode_reads :
    decodeHpw 0b000000000000#12 = .rdCmd 0x00 ∧ decodeHpw 0b000011111111#12 = .rdCmd 0xFF ∧
    decodeHpw 0b000110101011#12 = .rdStatus 0xAB ∧ decodeHpw 0b001000000000#12 = .rdData0 0x00 ∧
    decodeHpw 0b001100000000#12 = .rdData1 0x00 ∧ decodeHpw 0b010000000001#12 = .rdData2 0x01 ∧
    decodeHpw 0b010110000000#12 = .rdData3 0x80 ∧ decodeHpw 0b011000000000#12 = .rdPhase 0x00 ∧
    decodeHpw 0b011100000000#12 = .rdBitcnt 0x00 := by decide

theorem test_decode_uops :
    decodeUop 0b0001#4 = .acquire ∧ decodeUop 0b0010#4 = .cfgCoarse ∧ decodeUop 0b0011#4 = .cfgFine ∧
    decodeUop 0b0100#4 = .elapsed ∧ decodeUop 0b0101#4 = .release ∧ decodeUop 0b0110#4 = .dirOut ∧
    decodeUop 0b0111#4 = .dirIn ∧ decodeUop 0b1000#4 = .lineLow ∧ decodeUop 0b1001#4 = .lineHigh ∧
    decodeUop 0b1010#4 = .lineRead ∧ decodeUop 0b0000#4 = .reservedUop 0x0 ∧
    decodeUop 0b1011#4 = .reservedUop 0xB ∧ decodeUop 0b1111#4 = .reservedUop 0xF := by decide

theorem test_decode_table_words :
    decodeTableWord 16 0x801 = some .wrCmdFetch ∧ decodeTableWord 16 0x1AB = some (.rdStatus 0xAB) ∧
    decodeTableWord 8 0x5 = some .release ∧ decodeTableWord 16 0x1801 = none ∧ decodeTableWord 8 0x15 = none := by
  decide

/-! ## Host transactions: 95 section 2.3 -/

/-- H3, R143: the FETCH cycle of 95 Program 1, cycle 0. -/
theorem test_fetch :
    after (mk { idleRegs with done := true, ok := true } (hostCyc 0x801)) (fun t =>
      decide (statusByte t.cur = 0x01#8 ∧ t.cur.phase = .requestStart ∧
        (t.cur.snapA, t.cur.snapB, t.cur.snapM) = (0x03#8, 0x04#8, 0x01#8) ∧
        (t.cur.tccra, t.cur.tccrb, t.cur.timsk, t.cur.tcnt) = (0x00#8, 0x05#8, 0x00#8, 0) ∧
        t.cur.lineOe = true ∧ t.cur.lineOut = false)) = true := by decide

/-- H5, H11: FETCH in BIT_LOW, and in the exit cycle. -/
theorem test_fetch_overlapping :
    faults (mk (runRegs .bitLow 3) (hostCyc 0x801)) .overlappingFetch = true ∧
    faults (mk (runRegs .verify 3) (hostCyc 0x801)) .overlappingFetch = true := by decide

/-- H6. -/
theorem test_nop : after (mk idleRegs (hostCyc 0x800)) (fun t =>
    decide (t.cur = { idleRegs with tcnt := 1 } ∧ t.refused = none)) = true := by decide

/-- H8. -/
theorem test_reservedCmd : after (mk idleRegs (hostCyc 0x8FF)) (fun t =>
    decide (t.cur = { idleRegs with tcnt := 1 } ∧ t.refused = some .reservedCommand)) = true := by decide

/-- H7 and its like at the other addresses: 0x955, 0xA55 .. 0xFFF. -/
theorem test_writes_ignored :
    ∀ w ∈ [0x955#12, 0xA55#12, 0xB55#12, 0xC55#12, 0xD55#12, 0xE55#12, 0xFFF#12],
      after (mk idleRegs (hostCyc w)) (fun t => decide (t.cur = { idleRegs with tcnt := 1 })) = true := by decide

/-- The end state of 95 Program 1: every register's read. -/
def doneRegs : Regs :=
  { idleRegs with
    bitcnt := 40, payload := 0x32001B004D#40, done := true, ok := true
    data0 := 0x32, data1 := 0x00, data2 := 0x1B, data3 := 0x7F }

/-- 95 Program 1's reads (DATA3 changed to tell it from DATA1). -/
theorem test_reads_control :
    after (mk doneRegs (hostCyc 0x0FF)) (fun t => decide (t.sig.rdata = some 0x00#8)) = true ∧
    after (mk doneRegs (hostCyc 0x1AB)) (fun t => decide (t.sig.rdata = some 0x06#8)) = true ∧
    after (mk doneRegs (hostCyc 0x600)) (fun t => decide (t.sig.rdata = some 0x00#8)) = true ∧
    after (mk doneRegs (hostCyc 0x700)) (fun t => decide (t.sig.rdata = some 0x28#8)) = true := by decide

theorem test_reads_data :
    after (mk doneRegs (hostCyc 0x200)) (fun t => decide (t.sig.rdata = some 0x32#8)) = true ∧
    after (mk doneRegs (hostCyc 0x300)) (fun t => decide (t.sig.rdata = some 0x00#8)) = true ∧
    after (mk doneRegs (hostCyc 0x400)) (fun t => decide (t.sig.rdata = some 0x1B#8)) = true ∧
    after (mk doneRegs (hostCyc 0x500)) (fun t => decide (t.sig.rdata = some 0x7F#8)) = true := by decide

/-- H9: a read in the exit cycle gives the start-of-cycle value; RD PHASE in BIT_HIGH gives 6. -/
theorem test_reads_in_run :
    after (mk (runRegs .verify 3) (hostCyc 0x100)) (fun t => decide (t.sig.rdata = some 0x01#8)) = true ∧
    after (mk (runRegs .bitHigh 3) (hostCyc 0x600)) (fun t => decide (t.sig.rdata = some 0x06#8)) = true := by decide

/-- STATUS after a failure (95 section 2.8, BitLowPhase). -/
theorem test_status_failure :
    statusByte (statusFailure .bitLowPhase (runRegs .bitLow 71)) = 0x42#8 := by decide

/-! ## Micro-operations: 95 sections 2.1 and 2.2, one a cycle through the trace port -/

/-- T1, T10. -/
theorem test_acquire :
    after (mk idleRegs (uopCyc 0x1 true false)) (fun t =>
      decide (t.cur = { idleRegs with snapA := 0x03, snapB := 0x04, snapM := 0x01, ctx := .held })) = true ∧
    faults (mk (runRegs .idle 0) (uopCyc 0x1 true false)) .nestedAcquire = true := by decide

/-- 40 R101 (T2's second half). -/
theorem test_cfgCoarse : after (mk (runRegs .idle 0x5A) (uopCyc 0x2 true true)) (fun t =>
    decide ((t.cur.tccra, t.cur.tccrb, t.cur.timsk, t.cur.tcnt) = (0x00#8, 0x05#8, 0x00#8, 0) ∧
      t.cur.regime = .coarse)) = true := by decide

/-- T3, T11. -/
theorem test_cfgFine :
    after (mk (holdRegs 3) (uopCyc 0x3 true true)) (fun t =>
      decide ((t.cur.tccra, t.cur.tccrb, t.cur.timsk, t.cur.tcnt) = (0x00#8, 0x02#8, 0x00#8, 0) ∧
        t.cur.regime = .fine)) = true ∧
    faults (mk idleRegs (uopCyc 0x3 true true)) .configureWithoutAcquire = true := by decide

/-- T5, T6. -/
theorem test_elapsed :
    after (mk (runRegs .idle 61) (uopCyc 0x4 true true)) (fun t =>
      decide (t.sig.tickRes = some 61 ∧ t.cur.tcnt = 62)) = true ∧
    after (mk (runRegs .idle 40) (uopCyc 0x4 true false)) (fun t =>
      decide (t.sig.tickRes = some 40 ∧ t.cur.tcnt = 40)) = true := by decide

/-- T8, T12. -/
theorem test_release :
    after (mk (runRegs .idle 61) (uopCyc 0x5 true true)) (fun t =>
      decide ((t.cur.tccra, t.cur.tccrb, t.cur.timsk, t.cur.tcnt) = (0x03#8, 0x04#8, 0x01#8, 62) ∧
        t.cur.ctx = .free ∧ t.cur.regime = .none)) = true ∧
    faults (mk idleRegs (uopCyc 0x5 true true)) .releaseWithoutAcquire = true := by decide

/-- L1, L2. -/
theorem test_direction :
    after (mk idleRegs (uopCyc 0x6 true false)) (fun t => decide (t.cur = { idleRegs with lineOe := true })) = true ∧
    after (mk (holdRegs 3) (uopCyc 0x7 true false)) (fun t =>
      decide (t.cur = { holdRegs 3 with lineOe := false })) = true := by decide

/-- L2, L5. -/
theorem test_latch :
    after (mk (holdRegs 3) (uopCyc 0x8 true false)) (fun t => decide (t.cur = holdRegs 3)) = true ∧
    after (mk (holdRegs 3) (uopCyc 0x9 true false)) (fun t =>
      decide (t.cur = { holdRegs 3 with lineOut := true })) = true := by decide

/-- L3, L4, and 41 R125: a line that DHTDEC pulls low reads 0. -/
theorem test_lineRead :
    after (mk idleRegs (uopCyc 0xA false false)) (fun t => decide (t.sig.lineRes = some false)) = true ∧
    after (mk idleRegs (uopCyc 0xA true false)) (fun t => decide (t.sig.lineRes = some true)) = true ∧
    after (mk (holdRegs 3) (uopCyc 0xA true false)) (fun t => decide (t.sig.lineRes = some false)) = true := by decide

/-- 30_encoding.md R76. -/
theorem test_reservedUop : after (mk idleRegs (uopCyc 0xB true false)) (fun t =>
    decide (t.cur = idleRegs ∧ t.refused = some .reservedUop)) = true := by decide

/-- T7, T13: the counter wraps, and a stopped timer does not count. -/
theorem test_counter :
    after (mk { idleRegs with tcnt := 0xFF } (cyc true true)) (fun t => decide (t.cur.tcnt = 0)) = true ∧
    after (mk { idleRegs with tccrb := 0x08, tcnt := 5 } (cyc true true)) (fun t => decide (t.cur.tcnt = 5)) = true := by
  decide

/-! ## Phases: 95 section 2.4 -/

/-- P19, P20. -/
theorem test_request_hold :
    after (mk (holdRegs 140) (cyc true true)) (fun t => decide (t.cur = holdRegs 141)) = true ∧
    after (mk (holdRegs 141) (cyc true true)) (fun t => decide (t.cur = runRegs .waitResponse 0)) = true := by decide

/-- P1, P5, P8, P11, P14: the bound itself still waits. -/
theorem test_phases_wait :
    ∀ p ∈ [(Phase.waitResponse, true, 60), (.waitPreambleLow, false, 100), (.waitPreambleHigh, true, 100),
        (.bitLow, false, 70), (.bitHigh, true, 90)],
      after (mk (runRegs p.1 p.2.2) (cyc p.2.1 true)) (fun t =>
        decide (t.cur = runRegs p.1 (p.2.2 + 1))) = true := by decide

/-- P2, P6, P9, P12, P15: one above the bound fails, with the STATUS of 95 section 2.8. -/
theorem test_phases_time_out :
    ∀ p ∈ [(Phase.waitResponse, true, 61, 0x12#8), (.waitPreambleLow, false, 101, 0x22#8),
        (.waitPreambleHigh, true, 101, 0x32#8), (.bitLow, false, 71, 0x42#8), (.bitHigh, true, 91, 0x52#8)],
      after (mk (runRegs p.1 p.2.2.1) (cyc p.2.1 true)) (fun t =>
        decide (statusByte t.cur = p.2.2.2 ∧ t.cur.phase = .idle ∧ t.cur.tcnt = p.2.2.1 + 1 ∧
          (t.cur.tccra, t.cur.tccrb, t.cur.timsk) = (0x03#8, 0x04#8, 0x01#8))) = true := by decide

/-- P3, P7, P10, P13: the line wins over the bound. -/
theorem test_phases_pass :
    ∀ p ∈ [(Phase.waitResponse, false, 61, Phase.waitPreambleLow), (.waitPreambleLow, true, 101, .waitPreambleHigh),
        (.waitPreambleHigh, false, 101, .bitLow), (.bitLow, true, 71, .bitHigh)],
      after (mk (runRegs p.1 p.2.2.1) (cyc p.2.1 true)) (fun t =>
        decide (t.cur = runRegs p.2.2.2 0)) = true := by decide

/-- P16, P18, and 95 section 2.7's third row. -/
theorem test_bits :
    after (mk (runRegs .bitHigh 91) (cyc false true)) (fun t => decide (statusByte t.cur = 0x62#8)) = true ∧
    after (mk { runRegs .bitHigh 26 with bitcnt := 7, payload := 0x19 } (cyc false true)) (fun t =>
      decide (t.cur = { runRegs .bitLow 0 with bitcnt := 8, payload := 0x32 })) = true := by decide

/-- P17 with 95 section 2.7's last row: the 40th bit. -/
theorem test_last_bit :
    after (mk { runRegs .bitHigh 70 with bitcnt := 39, payload := 0x19000D8026#40 } (cyc false true)) (fun t =>
      decide (t.cur = { runRegs .verify 71 with bitcnt := 40, payload := 0x32001B004D#40 })) = true := by decide

/-- 95 section 1.2: Scenario A's frame and Scenario B's. -/
theorem test_verify :
    after (mk { runRegs .verify 71 with bitcnt := 40, payload := 0x32001B004D#40 } (cyc true true)) (fun t =>
      decide (statusByte t.cur = 0x06#8 ∧ t.cur.tcnt = 72 ∧
        (t.cur.data0, t.cur.data1, t.cur.data2, t.cur.data3) = (0x32#8, 0x00#8, 0x1B#8, 0x00#8))) = true ∧
    after (mk { runRegs .verify 27 with bitcnt := 40, payload := 0x32001B004E#40 } (cyc true true)) (fun t =>
      decide (statusByte t.cur = 0x72#8 ∧ t.cur.data0 = 0x00#8)) = true := by decide

/-- 95 section 1.3. -/
theorem test_classifier :
    [0, 19, 20, 35, 36, 59, 60, 80, 81, 90, 91].map (classify Config.atReset) =
      [.invalid, .invalid, .bit0, .bit0, .invalid, .invalid, .bit1, .bit1, .invalid, .invalid, .invalid] := by decide

/-- 95 section 2.6. -/
theorem test_checksum :
    checksum 0x01 0x02 0x03 0x04 = 0x0A#8 ∧ checksum 0xFF 0x01 0x00 0x00 = 0x00#8 ∧
    checksum 0xC8 0xC8 0xC8 0xC8 = 0x20#8 := by decide

/-- 95 section 2.5: windows 20..40 and 40..80 break PC1. -/
theorem test_illegal_parameters :
    { Config.atReset with w0Max := 40, w1Min := 40 }.legal = false ∧ Config.atReset.legal = true := by decide

/-- 20_memory.md R60, 70 R232. -/
theorem test_ownership :
    faults (mk (runRegs .bitLow 3) { cyc true true with agentWr := [.timsk 0x00] }) .timerOwnershipViolation = true ∧
    faults (mk idleRegs { hostCyc 0x801 with agentWr := [.tcnt 0] }) .timerOwnershipViolation = true ∧
    faults (mk (runRegs .verify 3) { cyc true true with rst := .block }) .timerOwnershipViolation = true := by decide

/-- 30_encoding.md R79: the words of FETCHDATA with two reads of STATUS. -/
theorem test_fetchdata_words :
    (Pseudo.fetchData 2).words = [0x801#12, 0x100#12, 0x100#12, 0x200#12, 0x300#12, 0x400#12, 0x500#12] := by decide

/-- 70 R230, R233: a system reset in a run empties the event history; 10 R37: REFUSED is never cleared. -/
theorem test_system_reset_empties_the_history :
    after
      { mk (runRegs .bitLow 1) { cyc true true with rst := .system } with
        refused := some .reservedCommand, history := [.uop 0 .acquire] }
      (fun t => decide (t.history = [] ∧ t.refused = some .reservedCommand ∧ t.cur.phase = .idle)) = true := by decide

/-- 70 R230, R232: a reset of DHTDEC alone with BUSY = 0 does the same and leaves the timer configuration. -/
theorem test_block_reset_empties_the_history :
    after
      { mk doneRegs { cyc true true with rst := .block } with
        refused := some .reservedCommand, history := [.host 0 0x8FF#12] }
      (fun t => decide (t.history = [] ∧ t.refused = some .reservedCommand ∧ t.cur.done = false ∧
        t.cur.tccra = 0x03#8)) = true := by decide

/-- `withFetchWord` on the reset state. -/
theorem test_placed_words :
    after (State.reset.withFetchWord 16 0x801) (fun t => decide (t.cur.phase = .requestStart)) = true ∧
    after (State.reset.withFetchWord 8 0x1) (fun t => decide (t.cur.ctx = .held)) = true := by decide

/-! ## Witnesses: hypotheses that can be met -/

theorem mk_live (r : Regs) (i : CycleIn) : (mk r i).live := ⟨rfl, show Config.atReset.legal = true by decide⟩

theorem mk_decoderCycle (r : Regs) (l k : Bool) : (mk r (cyc l k)).decoderCycle :=
  ⟨mk_live r _, ⟨rfl, rfl⟩, rfl, rfl⟩

theorem mk_traceCycle (r : Regs) (u : UopCode) (l k : Bool) : (mk r (uopCyc u l k)).traceCycle u :=
  ⟨mk_live r _, rfl, rfl, rfl, rfl⟩

theorem witness_DecodeOfEncodeGivesItBack :
    (Instr.reservedCmd 0x02).wellFormed = true ∧ (Instr.reservedCmd 0xFF).wellFormed = true ∧
    (Instr.reservedUop 0x0).wellFormed = true ∧ (Instr.reservedUop 0xB).wellFormed = true ∧
    (Instr.reservedUop 0xF).wellFormed = true ∧ (Instr.wrBitcnt 0xFF).wellFormed = true := by decide

theorem witness_NopAndReadOnlyWritesChangeNothing : 0x900 ≤ (0x900#12).toNat ∧ 0x900 ≤ (0xFFF#12).toNat := by decide

theorem witness_HostWordsFallIntoClasses :
    (0x7FF#12).getLsbD 11 = false ∧ ((0x900#12).getLsbD 11 = true ∧ (0x900#12).extractLsb' 8 3 ≠ 0#3) ∧
    ((0x802#12).getLsbD 11 = true ∧ (0x802#12).extractLsb' 8 3 = 0#3) := by decide

theorem witness_BadContainersAreRejected : 16 ≤ (0x10#8).toNat ∧ 16 ≤ (0xFF#8).toNat := by decide

theorem witness_AssemblerWords :
    0 ≤ 255 ∧ 255 ≤ 255 ∧ 255 < 256 ∧ assemble (.wr .bitcnt 255) = some 0xFFF#12 := by decide

theorem witness_StepRunsTheHostTransaction :
    ∃ s : State, s.live ∧ s.now.ordinary ∧ s.now.agentWr = [] ∧ s.now.host = some 0x801#12 :=
  ⟨mk idleRegs (hostCyc 0x801), mk_live _ _, ⟨rfl, rfl⟩, rfl, rfl⟩

theorem witness_StepRunsTheTracedUop : ∃ s : State, s.traceCycle 0xF#4 :=
  ⟨_, mk_traceCycle idleRegs 0xF true true⟩

theorem witness_StepRunsThePlacedWord :
    State.reset.live ∧ decodeTableWord 16 0xFFF = some (.wrBitcnt 0xFF) ∧ decodeTableWord 8 0xF = some (.reservedUop 0xF) :=
  ⟨⟨rfl, by decide⟩, by decide, by decide⟩

theorem witness_FetchDuringARunFaults :
    (mk (holdRegs 0) (hostCyc 0x801)).cur.phase ≠ .idle ∧ (mk (runRegs .verify 0) (hostCyc 0x801)).cur.phase ≠ .idle := by
  decide

theorem witness_FetchStartsARun :
    (mk idleRegs (hostCyc 0x801)).cur.phase = .idle ∧ (mk idleRegs (hostCyc 0x801)).cur.ctx = .free := by decide

theorem witness_FetchCycleLands :
    ∃ s : State, s.live ∧ s.now.ordinary ∧ s.now.agentWr = [] ∧ s.now.host = some 0x801#12 ∧ s.cur.phase = .idle ∧
      s.cur.ctx = .free :=
  ⟨mk idleRegs (hostCyc 0x801), mk_live _ _, ⟨rfl, rfl⟩, rfl, rfl, rfl, rfl⟩

theorem witness_TransactionsDoNotDisturbARun :
    ∃ (s : State) (i : CycleIn) (t : State), s.inputs = [i] ∧ i.host = none ∧ 0x8FF#12 ≠ 0x801#12 ∧
      0x100#12 ≠ 0x801#12 ∧ step s = .next t ∧ i.rst = .run ∧ (∀ d, decodeHpw 0x100#12 ≠ .reservedCmd d) := by
  obtain ⟨t, ht, -⟩ := next_of_after (s := mk (runRegs .bitLow 70) (cyc false true)) (p := fun _ => true) (by decide)
  exact ⟨_, _, t, rfl, rfl, by decide, by decide, ht, rfl, by decide⟩

theorem witness_contexts :
    (mk idleRegs (cyc true true)).cur.ctx = .free ∧ (mk (runRegs .idle 0) (cyc true true)).cur.ctx = .held ∧
    (mk idleRegs (cyc true true)).nxt.ctx = .free ∧ (mk (runRegs .idle 0) (cyc true true)).nxt.ctx = .held := by decide

/-- AcquireSnapshotsTheTimer and ReleaseRestoresTheTimer. -/
theorem witness_AcquireSnapshotsTheTimer : ∃ s s' : State, s.cur.ctx = .free ∧ s'.cur.ctx = .held :=
  ⟨_, _, witness_contexts.1, witness_contexts.2.1⟩

theorem witness_ReleaseRestoresTheTimer : ∃ s s' : State, s.cur.ctx = .held ∧ s'.cur.ctx = .free :=
  ⟨_, _, witness_contexts.2.1, witness_contexts.1⟩

theorem witness_ConfigureBorrowsTheTimer : ∃ s s' : State, s.nxt.ctx = .held ∧ s'.nxt.ctx = .free :=
  ⟨_, _, witness_contexts.2.2.2, witness_contexts.2.2.1⟩

theorem witness_ContextTransitions :
    (∃ s : State, s.traceCycle (Uop.code .acquire) ∧ s.cur.ctx = .free) ∧
    (∃ s : State, s.traceCycle (Uop.code .cfgCoarse) ∧ s.cur.ctx = .held) ∧
    (∃ s : State, s.traceCycle (Uop.code .cfgFine) ∧ s.cur.ctx = .held) ∧
    (∃ s : State, s.traceCycle (Uop.code .release) ∧ s.cur.ctx = .held) ∧
    (∃ s : State, s.traceCycle (Uop.code .acquire) ∧ s.cur.ctx = .held) ∧
    (∃ s : State, s.traceCycle (Uop.code .cfgCoarse) ∧ s.cur.ctx = .free) ∧
    (∃ s : State, s.traceCycle (Uop.code .cfgFine) ∧ s.cur.ctx = .free) ∧
    (∃ s : State, s.traceCycle (Uop.code .release) ∧ s.cur.ctx = .free) ∧
    (∃ s : State, s.traceCycle (Uop.code .elapsed)) :=
  ⟨⟨_, mk_traceCycle idleRegs _ true true, rfl⟩, ⟨_, mk_traceCycle (runRegs .idle 0) _ true true, rfl⟩,
    ⟨_, mk_traceCycle (runRegs .idle 0) _ true true, rfl⟩, ⟨_, mk_traceCycle (runRegs .idle 0) _ true true, rfl⟩,
    ⟨_, mk_traceCycle (runRegs .idle 0) _ true true, rfl⟩, ⟨_, mk_traceCycle idleRegs _ true true, rfl⟩,
    ⟨_, mk_traceCycle idleRegs _ true true, rfl⟩, ⟨_, mk_traceCycle idleRegs _ true true, rfl⟩,
    ⟨_, mk_traceCycle idleRegs _ true true⟩⟩

/-- Every ordinary cycle of these states has a next state: the four ways TCNT gets its value. -/
theorem witness_CounterFollowsTheTickRule :
    ∀ s ∈ [mk (holdRegs 141) (cyc true true), mk idleRegs { cyc true true with agentWr := [.tcnt 7, .tcnt 300] },
        mk { idleRegs with tcnt := 255 } (cyc true true), mk idleRegs (cyc true false)],
      s.now.ordinary ∧ ∃ t, step s = .next t := by
  simp only [List.forall_mem_cons, List.not_mem_nil, false_imp_iff, implies_true, and_true]
  exact ⟨⟨⟨rfl, rfl⟩, next_of_isNext (by decide)⟩, ⟨⟨rfl, rfl⟩, next_of_isNext (by decide)⟩,
    ⟨⟨rfl, rfl⟩, next_of_isNext (by decide)⟩, ⟨rfl, rfl⟩, next_of_isNext (by decide)⟩

/-- One decoder cycle for each clause. -/
theorem witness_MicroOpsPerPhase :
    (∃ s t : State, s.decoderCycle ∧ step s = .next t ∧ s.cur.phase = .idle) ∧
    (∃ s t : State, s.decoderCycle ∧ step s = .next t ∧ s.cur.phase = .requestStart ∧ s.cur.tcnt < s.cfg.tReq) ∧
    (∃ s t : State, s.decoderCycle ∧ step s = .next t ∧ s.cur.phase = .requestStart ∧ s.cfg.tReq ≤ s.cur.tcnt) ∧
    (∃ s t : State, s.decoderCycle ∧ step s = .next t ∧ s.cur.phase.polled = true ∧ t.cur.phase = s.cur.phase) ∧
    (∃ s t : State, s.decoderCycle ∧ step s = .next t ∧ s.cur.phase.polled = true ∧ t.cur.phase ≠ s.cur.phase ∧
      t.cur.phase.polled = true) ∧
    (∃ s t : State, s.decoderCycle ∧ step s = .next t ∧ s.cur.phase.polled = true ∧ t.cur.phase = .verify) ∧
    (∃ s t : State, s.decoderCycle ∧ step s = .next t ∧ s.cur.phase.polled = true ∧ t.cur.phase = .idle) ∧
    (∃ s t : State, s.decoderCycle ∧ step s = .next t ∧ s.cur.phase = .verify) := by
  have w : ∀ (r : Regs) (l k : Bool) (p : State → Bool), after (mk r (cyc l k)) p = true →
      ∃ t, (mk r (cyc l k)).decoderCycle ∧ step (mk r (cyc l k)) = .next t ∧ p t = true := fun r l k p h => by
    obtain ⟨t, ht, hp⟩ := next_of_after h
    exact ⟨t, mk_decoderCycle r l k, ht, hp⟩
  refine ⟨?_, ?_, ?_, ?_, ?_, ?_, ?_, ?_⟩
  · obtain ⟨t, h1, h2, -⟩ := w idleRegs true true (fun _ => true) (by decide)
    exact ⟨_, t, h1, h2, rfl⟩
  · obtain ⟨t, h1, h2, -⟩ := w (holdRegs 140) true true (fun _ => true) (by decide)
    exact ⟨_, t, h1, h2, rfl, by decide⟩
  · obtain ⟨t, h1, h2, -⟩ := w (holdRegs 141) true true (fun _ => true) (by decide)
    exact ⟨_, t, h1, h2, rfl, by decide⟩
  · obtain ⟨t, h1, h2, h3⟩ := w (runRegs .bitLow 70) false true (fun t => decide (t.cur.phase = .bitLow)) (by decide)
    exact ⟨_, t, h1, h2, rfl, of_decide_eq_true h3⟩
  · obtain ⟨t, h1, h2, h3⟩ := w (runRegs .bitLow 71) true true (fun t => decide (t.cur.phase = .bitHigh)) (by decide)
    have h4 := of_decide_eq_true h3
    exact ⟨_, t, h1, h2, rfl, by rw [h4]; decide, by rw [h4]; rfl⟩
  · obtain ⟨t, h1, h2, h3⟩ := w { runRegs .bitHigh 70 with bitcnt := 39 } false true
      (fun t => decide (t.cur.phase = .verify)) (by decide)
    exact ⟨_, t, h1, h2, rfl, of_decide_eq_true h3⟩
  · obtain ⟨t, h1, h2, h3⟩ := w (runRegs .waitResponse 61) true true (fun t => decide (t.cur.phase = .idle)) (by decide)
    exact ⟨_, t, h1, h2, rfl, of_decide_eq_true h3⟩
  · obtain ⟨t, h1, h2, -⟩ := w (runRegs .verify 1) true true (fun _ => true) (by decide)
    exact ⟨_, t, h1, h2, rfl⟩

theorem witness_IdleDoesNothing : ∃ s : State, s.decoderCycle ∧ s.cur.phase = .idle :=
  ⟨_, mk_decoderCycle idleRegs true true, rfl⟩

theorem witness_RequestHoldEndsAtItsLength :
    (∃ s : State, s.decoderCycle ∧ s.cur.phase = .requestStart ∧ s.cur.ctx = .held ∧ s.cur.tcnt < s.cfg.tReq) ∧
    (∃ s : State, s.decoderCycle ∧ s.cur.phase = .requestStart ∧ s.cur.ctx = .held ∧ s.cfg.tReq ≤ s.cur.tcnt) :=
  ⟨⟨_, mk_decoderCycle (holdRegs 140) true true, rfl, rfl, by decide⟩,
    ⟨_, mk_decoderCycle (holdRegs 141) true true, rfl, rfl, by decide⟩⟩

theorem witness_PolledPhaseWaits :
    ∃ s : State, s.decoderCycle ∧ s.cur.phase.polled = true ∧ s.cur.lineOe = false ∧
      s.now.line ≠ s.cur.phase.exitLevel ∧ s.cur.tcnt ≤ s.cur.phase.bound s.cfg :=
  ⟨_, mk_decoderCycle (runRegs .bitHigh 90) true true, rfl, rfl, by decide, by decide⟩

theorem witness_PolledPhaseTimesOut :
    ∀ p ∈ [(Phase.waitResponse, true, 61), (.waitPreambleLow, false, 101), (.waitPreambleHigh, true, 101),
        (.bitLow, false, 71), (.bitHigh, true, 91)],
      ∃ s : State, s.decoderCycle ∧ s.cur.ctx = .held ∧ s.cur.lineOe = false ∧ s.cur.phase = p.1 ∧
        s.now.line = p.2.1 ∧ s.cur.phase.bound s.cfg < s.cur.tcnt := by
  simp only [List.forall_mem_cons, List.not_mem_nil, false_imp_iff, implies_true, and_true]
  exact ⟨⟨_, mk_decoderCycle (runRegs .waitResponse 61) true true, rfl, rfl, rfl, rfl, by decide⟩,
    ⟨_, mk_decoderCycle (runRegs .waitPreambleLow 101) false true, rfl, rfl, rfl, rfl, by decide⟩,
    ⟨_, mk_decoderCycle (runRegs .waitPreambleHigh 101) true true, rfl, rfl, rfl, rfl, by decide⟩,
    ⟨_, mk_decoderCycle (runRegs .bitLow 71) false true, rfl, rfl, rfl, rfl, by decide⟩,
    ⟨_, mk_decoderCycle (runRegs .bitHigh 91) true true, rfl, rfl, rfl, rfl, by decide⟩⟩

theorem witness_PolledPhasePassesOnTheLine :
    ∀ p ∈ [(Phase.waitResponse, false), (.waitPreambleLow, true), (.waitPreambleHigh, false), (.bitLow, true)],
      ∃ s : State, s.decoderCycle ∧ s.cur.ctx = .held ∧ s.cur.lineOe = false ∧ s.cur.phase = p.1 ∧
        s.now.line = p.2 := by
  simp only [List.forall_mem_cons, List.not_mem_nil, false_imp_iff, implies_true, and_true]
  exact ⟨⟨_, mk_decoderCycle (runRegs .waitResponse 61) false true, rfl, rfl, rfl, rfl⟩,
    ⟨_, mk_decoderCycle (runRegs .waitPreambleLow 101) true true, rfl, rfl, rfl, rfl⟩,
    ⟨_, mk_decoderCycle (runRegs .waitPreambleHigh 101) false true, rfl, rfl, rfl, rfl⟩,
    ⟨_, mk_decoderCycle (runRegs .bitLow 71) true true, rfl, rfl, rfl, rfl⟩⟩

/-- Both windows at both ends, before the 40th bit and at it. -/
theorem witness_BitHighAcceptsAMeasuredBit :
    ∀ p ∈ [(false, 20, 0), (false, 35, 38), (true, 60, 39), (true, 80, 39)],
      ∃ s : State, s.decoderCycle ∧ s.cur.phase = .bitHigh ∧ s.cur.ctx = .held ∧ s.cur.lineOe = false ∧
        s.now.line = false ∧ s.cur.bitcnt.toNat = p.2.2 ∧ s.cur.bitcnt.toNat < 40 ∧
        (if p.1 then s.cfg.w1Min ≤ s.cur.tcnt ∧ s.cur.tcnt ≤ s.cfg.w1Max
         else s.cfg.w0Min ≤ s.cur.tcnt ∧ s.cur.tcnt ≤ s.cfg.w0Max) := by
  simp only [List.forall_mem_cons, List.not_mem_nil, false_imp_iff, implies_true, and_true]
  exact ⟨⟨_, mk_decoderCycle (runRegs .bitHigh 20) false true, rfl, rfl, rfl, rfl, rfl, by decide, by decide⟩,
    ⟨_, mk_decoderCycle { runRegs .bitHigh 35 with bitcnt := 38 } false true, rfl, rfl, rfl, rfl, rfl, by decide, by decide⟩,
    ⟨_, mk_decoderCycle { runRegs .bitHigh 60 with bitcnt := 39 } false true, rfl, rfl, rfl, rfl, rfl, by decide, by decide⟩,
    ⟨_, mk_decoderCycle { runRegs .bitHigh 80 with bitcnt := 39 } false true, rfl, rfl, rfl, rfl, rfl, by decide, by decide⟩⟩

theorem witness_BitHighRejectsAnInvalidWidth :
    ∀ n ∈ [19, 36, 59, 81],
      ∃ s : State, s.decoderCycle ∧ s.cur.phase = .bitHigh ∧ s.cur.ctx = .held ∧ s.cur.lineOe = false ∧
        s.now.line = false ∧ s.cur.tcnt = n ∧ ¬(s.cfg.w0Min ≤ s.cur.tcnt ∧ s.cur.tcnt ≤ s.cfg.w0Max) ∧
        ¬(s.cfg.w1Min ≤ s.cur.tcnt ∧ s.cur.tcnt ≤ s.cfg.w1Max) := by
  simp only [List.forall_mem_cons, List.not_mem_nil, false_imp_iff, implies_true, and_true]
  exact ⟨⟨_, mk_decoderCycle (runRegs .bitHigh 19) false true, rfl, rfl, rfl, rfl, rfl, by decide, by decide⟩,
    ⟨_, mk_decoderCycle (runRegs .bitHigh 36) false true, rfl, rfl, rfl, rfl, rfl, by decide, by decide⟩,
    ⟨_, mk_decoderCycle (runRegs .bitHigh 59) false true, rfl, rfl, rfl, rfl, rfl, by decide, by decide⟩,
    ⟨_, mk_decoderCycle (runRegs .bitHigh 81) false true, rfl, rfl, rfl, rfl, rfl, by decide, by decide⟩⟩

/-- 95 section 1.2: FF FF FF FF FC and its fifth byte with bit 7 flipped. -/
theorem witness_VerifyDecidesByTheChecksum :
    ∀ b4 ∈ [0xFC#8, 0x7C#8],
      ∃ s : State, s.decoderCycle ∧ s.cur.phase = .verify ∧ s.cur.ctx = .held ∧
        s.cur.payload = 0xFF#8 ++ 0xFF#8 ++ 0xFF#8 ++ 0xFF#8 ++ b4 ∧
        ((0xFF#8).toNat + (0xFF#8).toNat + (0xFF#8).toNat + (0xFF#8).toNat) % 256 = (0xFC#8).toNat := by
  simp only [List.forall_mem_cons, List.not_mem_nil, false_imp_iff, implies_true, and_true]
  exact ⟨⟨_, mk_decoderCycle { runRegs .verify 1 with bitcnt := 40, payload := 0xFFFFFFFFFC#40 } true true, rfl, rfl,
      by decide, by decide⟩,
    ⟨_, mk_decoderCycle { runRegs .verify 1 with bitcnt := 40, payload := 0xFFFFFFFF7C#40 } true true, rfl, rfl,
      by decide, by decide⟩⟩

theorem witness_ClassifierFollowsTheWindows :
    Config.atReset.legal = true ∧ classify Config.atReset 20 = .bit0 ∧ classify Config.atReset 80 = .bit1 ∧
    classify Config.atReset 36 = .invalid := by decide

theorem witness_BitsLandMostSignificantFirst :
    (List.replicate 40 true).length = 40 ∧ 0 < (List.replicate 40 true).length ∧
    39 < (List.replicate 40 true).length := by decide

/-- 95 section 1.2: FF FF FF FF FC, and its fifth byte with bit 0 and with bit 7 flipped. -/
theorem witness_ChecksumRoundTrip :
    BitVec.ofNat 8 ((0xFF#8).toNat + (0xFF#8).toNat + (0xFF#8).toNat + (0xFF#8).toNat) = 0xFC#8 ∧
    (∃ s : State, s.decoderCycle ∧ s.cur.phase = .verify ∧ s.cur.ctx = .held ∧
      s.cur.payload = 0xFF#8 ++ 0xFF#8 ++ 0xFF#8 ++ 0xFF#8 ++ 0xFC#8) ∧
    ∀ k ∈ [0, 7], k < 8 ∧ ∃ s : State, s.decoderCycle ∧ s.cur.phase = .verify ∧ s.cur.ctx = .held ∧
      s.cur.payload = 0xFF#8 ++ 0xFF#8 ++ 0xFF#8 ++ 0xFF#8 ++ (0xFC#8 ^^^ (1#8 <<< k)) := by
  simp only [List.forall_mem_cons, List.not_mem_nil, false_imp_iff, implies_true, and_true]
  exact ⟨by decide,
    ⟨_, mk_decoderCycle { runRegs .verify 1 with bitcnt := 40, payload := 0xFFFFFFFFFC#40 } true true, rfl, rfl,
      by decide⟩,
    ⟨by decide, _, mk_decoderCycle { runRegs .verify 1 with bitcnt := 40, payload := 0xFFFFFFFFFD#40 } true true, rfl,
      rfl, by decide⟩,
    ⟨by decide, _, mk_decoderCycle { runRegs .verify 1 with bitcnt := 40, payload := 0xFFFFFFFF7C#40 } true true, rfl,
      rfl, by decide⟩⟩

theorem witness_TimerWriteInTheWindowFaults :
    (∃ s : State, s.live ∧ s.now.rst = .run ∧ s.now.agentWr ≠ [] ∧ s.cur.phase ≠ .idle) ∧
    (∃ s : State, s.live ∧ s.now.rst = .run ∧ s.now.agentWr ≠ [] ∧ s.cur.phase = .idle ∧
      s.now.host = some 0x801#12) :=
  ⟨⟨mk (runRegs .verify 1) { cyc true true with agentWr := [.tcnt 0] }, mk_live _ _, rfl, by decide, by decide⟩,
    ⟨mk idleRegs { hostCyc 0x801 with agentWr := [.tcnt 0] }, mk_live _ _, rfl, by decide, rfl, rfl⟩⟩

theorem witness_TimerWriteOutsideTheWindowLands :
    ∀ w ∈ [AgentWrite.tccra 0xFF, .tccrb 0xFF, .timsk 0xFF, .tcnt 256],
      ∃ s : State, s.live ∧ s.now.ordinary ∧ s.cur.phase = .idle ∧ s.hostFetches = false ∧ s.now.agentWr = [w] :=
  fun w _ => ⟨mk idleRegs { cyc true true with agentWr := [w] }, mk_live _ _, ⟨rfl, rfl⟩, rfl, rfl, rfl⟩

theorem witness_SystemResetForcesResetValues :
    ∃ s : State, s.live ∧ s.now.rst = .system ∧ s.cur.phase ≠ .idle :=
  ⟨mk (runRegs .bitLow 1) { cyc true true with rst := .system }, mk_live _ _, rfl, by decide⟩

theorem witness_BlockResetAlone :
    (∃ s : State, s.live ∧ s.now.rst = .block ∧ s.cur.busy = true) ∧
    (∃ s : State, s.live ∧ s.now.rst = .block ∧ s.cur.busy = false ∧ s.now.agentWr = []) :=
  ⟨⟨mk (runRegs .bitLow 1) { cyc true true with rst := .block }, mk_live _ _, rfl, rfl⟩,
    ⟨mk doneRegs { cyc true true with rst := .block }, mk_live _ _, rfl, rfl, rfl⟩⟩

theorem witness_IllegalParametersAreRefused :
    ∃ s : State, s.faulted = none ∧ s.cfg.legal = false :=
  ⟨State.boot { Config.atReset with w0Max := 40, w1Min := 40 } [], rfl, by decide⟩

theorem witness_FaultedStaysFaulted :
    (∃ s : State, s.faulted = some .nestedAcquire) ∧ (∃ s : State, step s = .fault .overlappingFetch) :=
  ⟨⟨{ State.reset with faulted := some .nestedAcquire }, rfl⟩, ⟨_, fault_of_faults test_fetch_overlapping.1⟩⟩

theorem witness_StepKeepsTheBookkeeping :
    (∃ s t : State, step s = .next t ∧ s.refused = some .reservedCommand ∧ s.now.rst = .run) ∧
    (∃ s t : State, step s = .next t ∧ s.refused = some .reservedCommand ∧ s.now.rst ≠ .run ∧ s.history ≠ []) := by
  obtain ⟨t, ht⟩ := next_of_isNext
    (o := step { mk idleRegs (uopCyc 0xB true true) with refused := some .reservedCommand }) (by decide)
  obtain ⟨u, hu⟩ := next_of_isNext
    (o := step { mk (runRegs .bitLow 1) { cyc true true with rst := .system } with
      refused := some .reservedCommand, history := [.uop 0 .acquire] }) (by decide)
  exact ⟨⟨_, t, ht, rfl, rfl⟩, ⟨_, u, hu, rfl, by decide, by decide⟩⟩

/-! ## Witnesses of the invariant's statements -/

theorem idle_inv : Inv (mk idleRegs (cyc true true)) :=
  ⟨⟨⟨by decide, by decide, by decide, by decide, by decide, by decide, by decide, by decide, by decide, by decide⟩,
    by decide, by decide, by decide, by decide, by decide, by decide, by decide, by decide⟩, rfl, rfl⟩

theorem hold_inv : Inv (mk (holdRegs 141) (cyc true true)) :=
  ⟨⟨⟨by decide, by decide, by decide, by decide, by decide, by decide, by decide, by decide, by decide, by decide⟩,
    by decide, by decide, by decide, by decide, by decide, by decide, by decide, by decide⟩, rfl, rfl⟩

theorem bitHigh_inv : Inv (mk { runRegs .bitHigh 91 with bitcnt := 39 } (cyc true true)) :=
  ⟨⟨⟨by decide, by decide, by decide, by decide, by decide, by decide, by decide, by decide, by decide, by decide⟩,
    by decide, by decide, by decide, by decide, by decide, by decide, by decide, by decide⟩, rfl, rfl⟩

theorem verify_inv : Inv (mk { runRegs .verify 71 with bitcnt := 40 } (cyc true true)) :=
  ⟨⟨⟨by decide, by decide, by decide, by decide, by decide, by decide, by decide, by decide, by decide, by decide⟩,
    by decide, by decide, by decide, by decide, by decide, by decide, by decide, by decide⟩, rfl, rfl⟩

theorem success_inv : Inv (mk doneRegs (cyc true true)) :=
  ⟨⟨⟨by decide, by decide, by decide, by decide, by decide, by decide, by decide, by decide, by decide, by decide⟩,
    by decide, by decide, by decide, by decide, by decide, by decide, by decide, by decide⟩, rfl, rfl⟩

theorem failure_inv : Inv (mk { doneRegs with ok := false, reason := .checksumMismatch } (cyc true true)) :=
  ⟨⟨⟨by decide, by decide, by decide, by decide, by decide, by decide, by decide, by decide, by decide, by decide⟩,
    by decide, by decide, by decide, by decide, by decide, by decide, by decide, by decide⟩, rfl, rfl⟩

theorem witness_StepKeepsTheInvariant :
    (∃ s t : State, Inv s ∧ s.now.trace = none ∧ step s = .next t ∧ s.cur.phase = .requestStart) ∧
    (∃ s t : State, Inv s ∧ s.now.trace = none ∧ step s = .next t ∧ s.cur.phase = .bitHigh) := by
  obtain ⟨t, ht⟩ := next_of_isNext (o := step (mk (holdRegs 141) (cyc true true))) (by decide)
  obtain ⟨u, hu⟩ := next_of_isNext (o := step (mk { runRegs .bitHigh 91 with bitcnt := 39 } (cyc true true))) (by decide)
  exact ⟨⟨_, t, hold_inv, rfl, ht, rfl⟩, ⟨_, u, bitHigh_inv, rfl, hu, rfl⟩⟩

theorem witness_ReachedStatesMeetR35 :
    ∃ (ins : List CycleIn) (t : State), Config.atReset.legal = true ∧ (∀ i ∈ ins, i.trace = none) ∧
      Host.Core.run Sys2Proof.core 2 (State.boot Config.atReset ins) = .next t := by
  obtain ⟨t, ht⟩ := next_of_isNext
    (o := Host.Core.run Sys2Proof.core 2 (State.boot Config.atReset [hostCyc 0x801, cyc true true])) (by decide)
  exact ⟨_, t, by decide, by decide, ht⟩

theorem witness_PhasesFollowTheOrder :
    (∃ s t : State, s.now.ordinary ∧ step s = .next t ∧ s.cur.phase ≠ .idle ∧ t.cur.phase = .idle) ∧
    (∃ s t : State, s.now.ordinary ∧ step s = .next t ∧ s.cur.phase = .idle ∧ t.cur.phase = .requestStart) := by
  obtain ⟨t, ht, h⟩ := next_of_after (s := mk (runRegs .verify 1) (cyc true true))
    (p := fun t => decide (t.cur.phase = .idle)) (by decide)
  obtain ⟨u, hu, k⟩ := next_of_after (s := mk idleRegs (hostCyc 0x801))
    (p := fun t => decide (t.cur.phase = .requestStart)) (by decide)
  exact ⟨⟨_, t, ⟨rfl, rfl⟩, ht, by decide, of_decide_eq_true h⟩, ⟨_, u, ⟨rfl, rfl⟩, hu, rfl, of_decide_eq_true k⟩⟩

/-- Each clause's change happens: in the FETCH cycle, in BIT_HIGH, in VERIFY, and by another agent. -/
theorem witness_RegistersHaveTheirWriters :
    (∃ s t : State, s.now.ordinary ∧ step s = .next t ∧ t.cur.snapA ≠ s.cur.snapA ∧ t.cur.busy ≠ s.cur.busy ∧
      t.cur.ctx ≠ s.cur.ctx ∧ t.cur.lineOe ≠ s.cur.lineOe ∧ t.cur.tccra ≠ s.cur.tccra) ∧
    (∃ s t : State, s.now.ordinary ∧ step s = .next t ∧ t.cur.bitcnt ≠ s.cur.bitcnt) ∧
    (∃ s t : State, s.now.ordinary ∧ step s = .next t ∧ t.cur.data0 ≠ s.cur.data0) ∧
    (∃ s t : State, s.now.ordinary ∧ step s = .next t ∧ s.cur.phase = .idle ∧ t.cur.timsk ≠ s.cur.timsk) := by
  obtain ⟨t, ht, h⟩ := next_of_after (s := mk idleRegs (hostCyc 0x801))
    (p := fun t => decide (t.cur.snapA ≠ idleRegs.snapA ∧ t.cur.busy ≠ idleRegs.busy ∧ t.cur.ctx ≠ idleRegs.ctx ∧
      t.cur.lineOe ≠ idleRegs.lineOe ∧ t.cur.tccra ≠ idleRegs.tccra)) (by decide)
  obtain ⟨u, hu, k⟩ := next_of_after (s := mk (runRegs .bitHigh 26) (cyc false true))
    (p := fun t => decide (t.cur.bitcnt ≠ (runRegs .bitHigh 26).bitcnt)) (by decide)
  obtain ⟨v, hv, l⟩ := next_of_after (s := mk { runRegs .verify 1 with bitcnt := 40, payload := 0x32001B004D#40 } (cyc true true))
    (p := fun t => decide (t.cur.data0 ≠ 0x00#8)) (by decide)
  obtain ⟨w, hw, m⟩ := next_of_after (s := mk idleRegs { cyc true true with agentWr := [.timsk 0xFF] })
    (p := fun t => decide (t.cur.timsk ≠ idleRegs.timsk)) (by decide)
  exact ⟨⟨_, t, ⟨rfl, rfl⟩, ht, of_decide_eq_true h⟩, ⟨_, u, ⟨rfl, rfl⟩, hu, of_decide_eq_true k⟩,
    ⟨_, v, ⟨rfl, rfl⟩, hv, of_decide_eq_true l⟩, ⟨_, w, ⟨rfl, rfl⟩, hw, rfl, of_decide_eq_true m⟩⟩

theorem witness_StatusReadsOnlyItsValues :
    (∃ s : State, Inv s ∧ s.cur.busy = true) ∧ (∃ s : State, Inv s ∧ s.cur.busy = false ∧ s.cur.done = false) ∧
    (∃ s : State, Inv s ∧ s.cur.busy = false ∧ s.cur.done = true ∧ s.cur.ok = true) ∧
    (∃ s : State, Inv s ∧ s.cur.busy = false ∧ s.cur.done = true ∧ s.cur.ok = false) :=
  ⟨⟨_, hold_inv, rfl⟩, ⟨_, idle_inv, rfl, rfl⟩, ⟨_, success_inv, rfl, rfl, rfl⟩, ⟨_, failure_inv, rfl, rfl, rfl⟩⟩

/-! ## A run -/

/-- The phase an outcome ends in. -/
def phaseOf : Res → Option Phase
  | .next t => some t.cur.phase
  | .fault _ => none
  | .refused _ => none

/-- 95 Program 3 with the shortest hold and response bound: FETCH, two hold cycles, two of WAIT_RESPONSE with the line high. -/
def shortRun : State :=
  { State.boot { Config.atReset with tReq := 1, tResp := 0 }
      [hostCyc 0x801, cyc true true, cyc true true, cyc true true, cyc true true] with
    cur := idleRegs, nxt := idleRegs }

theorem shortRun_phases :
    [1, 2, 3, 4, 5].map (fun j => phaseOf (Host.Core.run Sys2Proof.core j shortRun)) =
      [some .requestStart, some .requestStart, some .waitResponse, some .waitResponse, some .idle] := by decide

/-- RunRestoresTheTimer, RunHasOneOfEightOutcomes, AcquireAndReleaseBracketEveryRun. -/
theorem witness_IsRun : ∃ u, IsRun shortRun 4 u := by
  have hp := shortRun_phases
  simp only [List.map_cons, List.map_nil, List.cons.injEq, and_true] at hp
  obtain ⟨u, hu⟩ := next_of_isNext (o := Host.Core.run Sys2Proof.core 5 shortRun) (by decide)
  refine ⟨u, ?_, rfl, rfl, hu, ?_, ?_⟩
  · intro i hi
    have h : ∀ i ∈ shortRun.inputs, i.rst = .run ∧ i.trace = none := by decide
    exact h i hi
  · have h := hp.2.2.2.2
    rw [hu] at h
    exact Option.some.inj h
  · intro j h1 h4 x hx hi
    have hj : j = 1 ∨ j = 2 ∨ j = 3 ∨ j = 4 := by omega
    have hq : phaseOf (Host.Core.run Sys2Proof.core j shortRun) = some .idle := by
      rw [hx]
      exact congrArg some hi
    obtain rfl | rfl | rfl | rfl := hj
    · rw [hp.1] at hq
      cases hq
    · rw [hp.2.1] at hq
      cases hq
    · rw [hp.2.2.1] at hq
      cases hq
    · rw [hp.2.2.2.1] at hq
      cases hq

/-- AcquireAndReleaseBracketEveryRun, its second half. -/
theorem witness_AcquireAndReleaseBracketEveryRun :
    (∃ s t : State, s.now.ordinary ∧ step s = .next t ∧ s.cur.phase = .idle ∧ s.hostFetches = true) ∧
    (∃ s t : State, s.now.ordinary ∧ step s = .next t ∧ s.cur.phase ≠ .idle ∧ t.cur.phase = .idle) ∧
    (∃ s t : State, s.now.ordinary ∧ step s = .next t ∧ s.cur.phase = .idle ∧ s.hostFetches = false) := by
  obtain ⟨t, ht⟩ := next_of_isNext (o := step (mk idleRegs (hostCyc 0x801))) (by decide)
  obtain ⟨v, hv⟩ := next_of_isNext (o := step (mk idleRegs (cyc true true))) (by decide)
  obtain ⟨⟨s, u, h1, h2, h3, h4⟩, -⟩ := witness_PhasesFollowTheOrder
  exact ⟨⟨_, t, ⟨rfl, rfl⟩, ht, rfl, rfl⟩, ⟨s, u, h1, h2, h3, h4⟩, ⟨_, v, ⟨rfl, rfl⟩, hv, rfl, rfl⟩⟩

/-- The shortest bounds PC1-PC5 admit here, a FETCH, and as many ticking cycles after it as a run can take: 209. -/
def cleanStart : State :=
  { State.boot
      { Config.atReset with
        tReq := 1, tResp := 0, tPreLow := 0, tPreHigh := 0, tBitLow := 0, tBitHigh := 1
        w0Min := 0, w0Max := 0, w1Min := 1, w1Max := 1 }
      (hostCyc 0x801 :: List.replicate 209 (cyc true true)) with
    cur := { idleRegs with data0 := 0x32, done := true, reason := .checksumMismatch } }

theorem witness_CleanEntryLeadsToACleanRun :
    cleanStart.cleanEntry ∧ cleanStart.hostFetches = true ∧ cleanStart.now.ordinary ∧ cleanStart.now.agentWr = [] ∧
    (∀ i ∈ cleanStart.inputs.tail, i.quiet) ∧
    (cleanStart.cfg.tReq + 1) + (cleanStart.cfg.tResp + 2) + (cleanStart.cfg.tPreLow + 2) +
        (cleanStart.cfg.tPreHigh + 2) + 40 * ((cleanStart.cfg.tBitLow + 2) + (cleanStart.cfg.tBitHigh + 2)) + 1 ≤
      cleanStart.inputs.tail.countP (fun i => i.tick) := by
  refine ⟨⟨rfl, rfl, rfl, rfl, rfl, by decide⟩, rfl, ⟨rfl, rfl⟩, rfl, ?_, ?_⟩
  · intro i hi
    obtain rfl : i = cyc true true := List.eq_of_mem_replicate hi
    exact ⟨⟨rfl, rfl⟩, rfl, by decide⟩
  · have h : cleanStart.inputs.tail = List.replicate 209 (cyc true true) := rfl
    rw [h, List.countP_replicate]
    decide

theorem witness_RunEndsWithinItsTicks :
    ∃ s : State, s.live ∧ Inv s ∧ s.cur.phase ≠ .idle ∧ (∀ i ∈ s.inputs, i.quiet) ∧
      ticksLeft s.cfg s.cur ≤ s.inputs.countP (fun i => i.tick) := by
  refine ⟨_, mk_live _ _, verify_inv, by decide, ?_, by decide⟩
  intro i hi
  have h : ∀ i ∈ (mk { runRegs .verify 71 with bitcnt := 40 } (cyc true true)).inputs,
      (i.rst = .run ∧ i.trace = none) ∧ i.agentWr = [] ∧ i.host ≠ some 0x801#12 := by decide
  exact h i hi

theorem witness_TicksLeftDecrease :
    ∃ s t : State, Inv s ∧ s.cur.phase ≠ .idle ∧ s.now.quiet ∧ step s = .next t := by
  obtain ⟨t, ht⟩ := next_of_isNext (o := step (mk (holdRegs 141) (cyc true true))) (by decide)
  exact ⟨_, t, hold_inv, by decide, ⟨⟨rfl, rfl⟩, rfl, by decide⟩, ht⟩

end Sys2Proof.Tests
end

section
/-! PROOFS. A step refused for its parameters (00_scope.md R8), and the parts of an ordinary cycle in the order of
42_protocol_decoder.md R140. -/

namespace Sys2Proof

/-! ## Legality, condition by condition -/

theorem Config.pc1_iff (c : Config) :
    c.pc1 = true ↔ c.w0Min ≤ c.w0Max ∧ c.w0Max < c.w1Min ∧ c.w1Min ≤ c.w1Max := by
  simp [Config.pc1, and_assoc]

theorem Config.pc2_iff (c : Config) :
    c.pc2 = true ↔
      ∀ b ∈ [c.tResp, c.tPreLow, c.tPreHigh, c.tBitLow, c.tBitHigh], b + 1 ≤ 2 ^ c.cntW - 1 := by
  simp [Config.pc2, and_assoc]

theorem Config.pc3_iff (c : Config) : c.pc3 = true ↔ 1 ≤ c.tReq ∧ c.tReq ≤ 2 ^ c.cntW - 1 := by
  simp [Config.pc3]

theorem Config.pc4_iff (c : Config) :
    c.pc4 = true ↔
      c.running.eval c.coarseA c.coarseB = true ∧ c.running.eval c.fineA c.fineB = true := by
  simp [Config.pc4]

theorem Config.pc5_iff (c : Config) : c.pc5 = true ↔ c.w1Max ≤ c.tBitHigh := by
  simp [Config.pc5]

theorem Config.legal_iff (c : Config) :
    c.legal = true ↔ c.pc1 = true ∧ c.pc2 = true ∧ c.pc3 = true ∧ c.pc4 = true ∧ c.pc5 = true := by
  simp [Config.legal, and_assoc]

namespace Machine

theorem step_of_illegal {s : State} (hf : s.faulted = none) (hc : s.cfg.legal = false) :
    step s = .refused .illegalParameters := by
  simp [step, cycleStep, hf, hc]

/-! ## The parts of a cycle -/

theorem andThen_congr {o : Res} {f g : State → Res} (h : ∀ s, o = .next s → f s = g s) :
    andThen o f = andThen o g := by
  cases o with
  | next s => exact h s rfl
  | fault r => rfl
  | refused r => rfl

theorem step_of_run {s : State} (hl : s.live) (hr : s.now.rst = .run) : step s = runCycle s := by
  rw [step_of_live hl, hr]

theorem agentWrites_of_alone {s : State} (h : s.now.agentWr = []) : agentWrites s = .next s := by
  simp [agentWrites, h]

theorem hostPort_of_host {s : State} {w : HpwWord} (h : s.now.host = some w) :
    hostPort s = exec (decodeHpw w) (s.record w) := by
  simp [hostPort, h]

theorem decoderPart_of_untraced {s : State} (h : s.now.trace = none) : decoderPart s = phaseStep s := by
  simp [decoderPart, h]

/-- The meaning of an instruction leaves the cycle's inputs. -/
theorem now_of_exec {i : Instr} {s t : State} (h : exec i s = .next t) : t.now = s.now :=
  (exec_kept i s t h).now

/-! ## The obligations -/

/-- Settles O44: the five conditions are read off the parameter record one by one, and the legality test stands before
every other part of a cycle. -/
theorem illegalParametersAreRefused : Obligations.IllegalParametersAreRefused := by
  refine ⟨fun c => ?_, by decide, fun s => step_of_illegal⟩
  rw [c.legal_iff, c.pc1_iff, c.pc2_iff, c.pc3_iff, c.pc4_iff, c.pc5_iff]

/-- Settles O8: the host transaction leaves the cycle's inputs, so what follows it is the phase rule and no trace. -/
theorem stepRunsTheHostTransaction : Obligations.StepRunsTheHostTransaction := by
  rintro s w hl ⟨hrun, htrace⟩ halone hhost
  calc step s
      = runCycle s := step_of_run hl hrun
    _ = andThen (exec (decodeHpw w) (s.beginCycle.record w)) fun a =>
        andThen (decoderPart a) fun b => .next b.endCycle := by
      rw [runCycle, agentWrites_of_alone (s := s.beginCycle) halone, andThen_next,
        hostPort_of_host (s := s.beginCycle) hhost]
    _ = andThen (exec (decodeHpw w) (s.beginCycle.record w)) fun a =>
        andThen (phaseStep a) fun b => .next b.endCycle := by
      refine andThen_congr fun a ha => ?_
      have hnow : a.now = s.now := by simpa using now_of_exec ha
      rw [decoderPart_of_untraced (by rw [hnow, htrace])]

end Machine

end Sys2Proof
end

section
/-! PROOFS. The invariants of 10_state.md R35 (I1-I7 and what they rest on): one lemma per kind of cycle, the step, and every
state reached from power-up. -/

namespace Sys2Proof.Machine

/-! ## The counter's range -/

theorem counted_le (s : State) : s.counted ≤ s.cur.tcnt + 1 := by
  unfold State.counted
  split
  · exact Nat.mod_le _ _
  · omega

theorem counted_lt {s : State} (h : s.cur.tcnt < 2 ^ s.cfg.cntW) : s.counted < 2 ^ s.cfg.cntW := by
  unfold State.counted
  split
  · exact Nat.mod_lt _ (Nat.two_pow_pos _)
  · exact h

/-- TCNT keeps its width through other agents' writes and the cycle's tick (40_timer_context.md R111, R114). -/
theorem tcntNext_agents_lt {s : State} (ws : List AgentWrite) (hw : s.cntWr = false)
    (h : s.cur.tcnt < 2 ^ s.cfg.cntW) : (applyAgentWrites s ws).tcntNext < 2 ^ s.cfg.cntW := by
  obtain ⟨hwr, hval⟩ := applyAgentWrites_tcnt ws s
  have hkept := kept_agents s ws
  unfold State.tcntNext
  rw [hwr, hval, hkept.cfg, hkept.cur, hw]
  cases lastTcntWrite ws with
  | some v => exact Nat.mod_lt _ (Nat.two_pow_pos _)
  | none =>
    simp only [Option.isSome_none, Bool.or_self, Bool.false_eq_true, if_false]
    split
    · exact Nat.mod_lt _ (Nat.two_pow_pos _)
    · exact h

/-! ## The invariant in IDLE -/

/-- `RunInv` in IDLE, where the timer's configuration is the host's: nothing is said of it. -/
structure IdleInv (c : Config) (r : Regs) : Prop where
  phase : r.phase = .idle
  busy : r.busy = false
  ctx : r.ctx = .free
  regime : r.regime = .none
  lineOe : r.lineOe = false
  lineOut : r.lineOut = true
  bitcnt_le : r.bitcnt.toNat ≤ 40
  ok_clean : r.ok = true → r.reason = .none ∧ r.done = true
  reason_unset : r.done = false → r.reason = .none
  reason_set : r.done = true → r.ok = false → r.reason ≠ .none
  cnt_width : r.tcnt < 2 ^ c.cntW

theorem IdleInv.runInv {c : Config} {r : Regs} (h : IdleInv c r) : RunInv c r where
  spec :=
    { busy_iff := by simp [h.busy, h.phase]
      held_iff := by simp [h.ctx, h.phase]
      request := by simp [h.phase]
      released := by simp [h.phase, Phase.released, Phase.polled]
      idle := fun _ => ⟨h.regime, h.lineOe⟩
      bitcnt_le := h.bitcnt_le
      bitcnt_verify := by simp [h.phase]
      bitcnt_lt := by simp [h.phase]
      done_idle := fun _ => h.busy
      ok_clean := h.ok_clean }
  no_bits := by simp [h.phase, Phase.beforeBits]
  latch_high := fun _ => h.lineOut
  reason_unset := h.reason_unset
  reason_set := h.reason_set
  cnt_width := h.cnt_width
  coarse := by simp [h.phase]
  fine := by simp [h.phase, Phase.released, Phase.polled]
  cnt_bound := by simp [h.phase, Phase.polled]

theorem RunInv.idleInv {c : Config} {r : Regs} (h : RunInv c r) (hp : r.phase = .idle) : IdleInv c r where
  phase := hp
  busy := by simpa [hp] using h.spec.busy_iff
  ctx := (ctx_cases r.ctx).resolve_right fun hc => h.spec.held_iff.1 hc hp
  regime := (h.spec.idle hp).1
  lineOe := (h.spec.idle hp).2
  lineOut := h.latch_high (by simp [hp])
  bitcnt_le := h.spec.bitcnt_le
  ok_clean := h.spec.ok_clean
  reason_unset := h.reason_unset
  reason_set := h.reason_set
  cnt_width := h.cnt_width

/-- The invariant in IDLE says nothing of the timer but the width of its counter. -/
theorem IdleInv.with_timer {c : Config} {r : Regs} (h : IdleInv c r) (a b m : TReg) {n : Nat} (hn : n < 2 ^ c.cntW) :
    IdleInv c { r with tccra := a, tccrb := b, timsk := m, tcnt := n } :=
  { h with cnt_width := hn }

theorem idleInv_reset (c : Config) : IdleInv c (Regs.reset c) where
  phase := rfl
  busy := rfl
  ctx := rfl
  regime := rfl
  lineOe := rfl
  lineOut := rfl
  bitcnt_le := Nat.zero_le _
  ok_clean := nofun
  reason_unset := fun _ => rfl
  reason_set := nofun
  cnt_width := Nat.mod_lt _ (Nat.two_pow_pos _)

/-! ## The invariant in a run -/

/-- CTX and STATUS within a run: the context is held, BUSY alone is set. -/
structure Running (r : Regs) : Prop where
  busy : r.busy = true
  ctx : r.ctx = .held
  done : r.done = false
  ok : r.ok = false
  reason : r.reason = .none

theorem RunInv.running {c : Config} {r : Regs} (h : RunInv c r) (hp : r.phase ≠ .idle) : Running r := by
  have hbusy : r.busy = true := h.spec.busy_iff.2 hp
  have hdone : r.done = false := by
    by_contra hd
    simp [h.spec.done_idle (by simpa using hd)] at hbusy
  refine ⟨hbusy, h.spec.held_iff.2 hp, hdone, ?_, h.reason_unset hdone⟩
  by_contra hok
  simp [(h.spec.ok_clean (by simpa using hok)).2] at hdone

theorem Phase.released_of_polled {p : Phase} (h : p.polled = true) : p.released = true := by
  unfold Phase.released
  split
  · rfl
  · exact h

theorem Phase.ne_of_polled {p : Phase} (h : p.polled = true) : p ≠ .idle ∧ p ≠ .requestStart ∧ p ≠ .verify := by
  cases p <;> simp_all [Phase.polled]

theorem Phase.ne_of_released {p : Phase} (h : p.released = true) : p ≠ .idle ∧ p ≠ .requestStart := by
  cases p <;> simp_all [Phase.released, Phase.polled]

/-- A phase that passes on the line and the next are polled, and no bit comes before BIT_LOW (42_protocol_decoder.md
R145-R148). -/
theorem Phase.polled_of_pass {q p : Phase}
    (h : (q, p) ∈ [(Phase.waitResponse, Phase.waitPreambleLow), (.waitPreambleLow, .waitPreambleHigh),
      (.waitPreambleHigh, .bitLow), (.bitLow, .bitHigh)]) :
    q.polled = true ∧ p.polled = true ∧ (q.beforeBits = true ∨ q = .bitLow ∧ p.beforeBits = false) := by
  simp only [List.mem_cons, Prod.mk.injEq, List.not_mem_nil, or_false] at h
  obtain ⟨rfl, rfl⟩ | ⟨rfl, rfl⟩ | ⟨rfl, rfl⟩ | ⟨rfl, rfl⟩ := h <;> decide

theorem Phase.timeout_ne_none {p : Phase} (h : p.polled = true) : p.timeout ≠ .none := by
  cases p <;> simp_all [Phase.polled, Phase.timeout]

/-- A cycle that only counts: the new count need only respect the counter's width and the bounds of the phase. -/
theorem RunInv.with_tcnt {c : Config} {r : Regs} {n : Nat} (h : RunInv c r) (hw : n < 2 ^ c.cntW)
    (hreq : r.phase = .requestStart → n ≤ c.tReq) (hpoll : r.phase.polled = true → n ≤ r.phase.bound c + 1) :
    RunInv c { r with tcnt := n } :=
  { h with
    spec := { h.spec with }
    cnt_width := hw
    coarse := fun hp => by
      obtain ⟨ha, hb, hm, -⟩ := h.coarse hp
      exact ⟨ha, hb, hm, hreq hp⟩
    cnt_bound := hpoll }

/-- The entry of a polled phase with CFG_FINE (42_protocol_decoder.md R144-R148, R151). -/
theorem runInv_afterFine {s : State} {p : Phase} {r : Regs} (hp : p.polled = true) (hrun : Running r)
    (hoe : r.lineOe = false) (hout : r.lineOut = true) (hlt : r.bitcnt.toNat < 40)
    (hzero : p.beforeBits = true → r.bitcnt = 0) : RunInv s.cfg (afterFine s p r) := by
  obtain ⟨hidle, hrequest, hverify⟩ := Phase.ne_of_polled hp
  exact
    { spec :=
        { busy_iff := by simp [afterFine, hrun.busy, hidle]
          held_iff := by simp [afterFine, hrun.ctx, hidle]
          request := fun h => absurd h hrequest
          released := fun _ => ⟨rfl, hoe⟩
          idle := fun h => absurd h hidle
          bitcnt_le := hlt.le
          bitcnt_verify := fun h => absurd h hverify
          bitcnt_lt := fun _ => hlt
          done_idle := by simp [afterFine, hrun.done]
          ok_clean := by simp [afterFine, hrun.ok] }
      no_bits := hzero
      latch_high := fun _ => hout
      reason_unset := fun _ => hrun.reason
      reason_set := by simp [afterFine, hrun.done]
      cnt_width := Nat.two_pow_pos _
      coarse := fun h => absurd h hrequest
      fine := fun _ => ⟨rfl, rfl, rfl⟩
      cnt_bound := fun _ => Nat.zero_le _ }

/-- The 40th bit: VERIFY follows in the same configuration, with the counter counting on (42 R151). -/
theorem runInv_lastBit {c : Config} {r : Regs} {n : Nat} {w : BitVec 40} {k : BitVec 6} (h : RunInv c r)
    (hp : r.phase = .bitHigh) (hk : k = 40#6) (hw : n < 2 ^ c.cntW) :
    RunInv c { r with payload := w, bitcnt := k, phase := .verify, tcnt := n } := by
  have hrun := h.running (by simp [hp])
  have hrel : r.phase.released = true := by simp [hp, Phase.released, Phase.polled]
  have hforty : k.toNat = 40 := by simp [hk]
  exact
    { spec :=
        { busy_iff := by simp [hrun.busy]
          held_iff := by simp [hrun.ctx]
          request := nofun
          released := fun _ => h.spec.released hrel
          idle := nofun
          bitcnt_le := hforty.le
          bitcnt_verify := fun _ => hforty
          bitcnt_lt := by simp
          done_idle := by simp [hrun.done]
          ok_clean := by simp [hrun.ok] }
      no_bits := nofun
      latch_high := fun _ => h.latch_high (by simp [hp])
      reason_unset := fun _ => hrun.reason
      reason_set := by simp [hrun.done]
      cnt_width := hw
      coarse := nofun
      fine := fun _ => h.fine hrel
      cnt_bound := nofun }

/-- An accepted FETCH (42 R143), whatever the registers were. -/
theorem runInv_fetch (c : Config) (r : Regs) :
    RunInv c { r with
      snapA := r.tccra, snapB := r.tccrb, snapM := r.timsk, ctx := .held, regime := .coarse
      tccra := c.coarseA, tccrb := c.coarseB, timsk := c.imsk, tcnt := 0
      lineOe := true, lineOut := false, payload := 0, bitcnt := 0
      busy := true, done := false, ok := false, reason := .none, phase := .requestStart } where
  spec :=
    { busy_iff := by simp
      held_iff := by simp
      request := fun _ => ⟨rfl, rfl, rfl⟩
      released := nofun
      idle := nofun
      bitcnt_le := Nat.zero_le _
      bitcnt_verify := nofun
      bitcnt_lt := by simp
      done_idle := nofun
      ok_clean := nofun }
  no_bits := fun _ => rfl
  latch_high := fun h => absurd rfl h
  reason_unset := fun _ => rfl
  reason_set := nofun
  cnt_width := Nat.two_pow_pos _
  coarse := fun _ => ⟨rfl, rfl, rfl, Nat.zero_le _⟩
  fine := nofun
  cnt_bound := nofun

/-- A failure exit from a released phase (60_exceptions.md R208). -/
theorem idleInv_afterFailure {s : State} {reason : Reason} (h : RunInv s.cfg s.cur)
    (hp : s.cur.phase.released = true) (hr : reason ≠ .none) : IdleInv s.cfg (afterFailure s reason) where
  phase := rfl
  busy := rfl
  ctx := rfl
  regime := rfl
  lineOe := (h.spec.released hp).2
  lineOut := h.latch_high (Phase.ne_of_released hp).2
  bitcnt_le := h.spec.bitcnt_le
  ok_clean := nofun
  reason_unset := nofun
  reason_set := fun _ _ => hr
  cnt_width := counted_lt h.cnt_width

/-- The success exit (60 R209). -/
theorem idleInv_afterSuccess {s : State} {b0 b1 b2 b3 : Byte} (h : RunInv s.cfg s.cur)
    (hp : s.cur.phase = .verify) :
    IdleInv s.cfg { afterFailure s .none with ok := true, data0 := b0, data1 := b1, data2 := b2, data3 := b3 } where
  phase := rfl
  busy := rfl
  ctx := rfl
  regime := rfl
  lineOe := (h.spec.released (by simp [hp, Phase.released])).2
  lineOut := h.latch_high (by simp [hp])
  bitcnt_le := h.spec.bitcnt_le
  ok_clean := fun _ => ⟨rfl, rfl⟩
  reason_unset := nofun
  reason_set := nofun
  cnt_width := counted_lt h.cnt_width

/-! ## The step -/

/-- A bit before the 40th keeps BITCNT below 40 (10_state.md R35, I5). -/
theorem bitcnt_succ_lt {n : BitVec 6} (h : n.toNat < 40) (hn : n + 1 ≠ 40#6) : (n + 1).toNat < 40 := by
  bv_omega

/-- Every case of a cycle that the decoder runs by its own rules keeps the invariant. -/
theorem CycleCase.runInv {s : State} {us : List Uop} {r : Regs} (hc : CycleCase s us r) (h : RunInv s.cfg s.cur) :
    RunInv s.cfg r := by
  have hlt := counted_lt h.cnt_width
  have hle := counted_le s
  cases hc with
  | idle hp =>
    have hw : (agentRegs s).tcnt < 2 ^ s.cfg.cntW := tcntNext_agents_lt (s := s.beginCycle) _ rfl h.cnt_width
    obtain ⟨a, b, m, n, hr⟩ := agentRegs_frame s
    rw [hr] at hw ⊢
    exact ((h.idleInv hp).with_timer a b m hw).runInv
  | fetch => exact runInv_fetch s.cfg s.cur
  | hold hp _ _ ht => exact h.with_tcnt hlt (fun _ => by omega) (by simp [hp, Phase.polled])
  | holdEnd hp =>
    have hrun := h.running (by simp [hp])
    have hzero : s.cur.bitcnt = 0 := h.no_bits (by simp [hp, Phase.beforeBits])
    exact runInv_afterFine rfl { hrun with } rfl rfl (by simp [hzero]) fun _ => hzero
  | wait hp _ _ _ ht =>
    exact h.with_tcnt hlt (fun hq => absurd hq (Phase.ne_of_polled hp).2.1) (fun _ => by omega)
  | timeout hp =>
    exact (idleInv_afterFailure h (Phase.released_of_polled hp) (Phase.timeout_ne_none hp)).runInv
  | pass p hp =>
    obtain ⟨hq, hp, hbits⟩ := Phase.polled_of_pass hp
    have hrun := h.running (Phase.ne_of_polled hq).1
    have hoe := (h.spec.released (Phase.released_of_polled hq)).2
    have hout := h.latch_high (Phase.ne_of_polled hq).2.1
    obtain hq | ⟨hq, hnot⟩ := hbits
    · have hzero : s.cur.bitcnt = 0 := h.no_bits hq
      exact runInv_afterFine hp hrun hoe hout (by simp [hzero]) fun _ => hzero
    · exact runInv_afterFine hp hrun hoe hout (h.spec.bitcnt_lt (.inl hq)) (by simp [hnot])
  | bit b hp _ _ _ _ _ hn =>
    have hrun := h.running (by simp [hp])
    exact runInv_afterFine rfl { hrun with }
      (h.spec.released (by simp [hp, Phase.released, Phase.polled])).2 (h.latch_high (by simp [hp]))
      (bitcnt_succ_lt (h.spec.bitcnt_lt (.inr hp)) hn) nofun
  | lastBit b hp _ _ _ _ hn => exact runInv_lastBit h hp hn hlt
  | invalid hp =>
    exact (idleInv_afterFailure h (by simp [hp, Phase.released, Phase.polled]) (by decide)).runInv
  | success hp => exact (idleInv_afterSuccess h hp).runInv
  | mismatch hp => exact (idleInv_afterFailure h (by simp [hp, Phase.released]) (by decide)).runInv

/-- What a reset cycle leaves in the registers (70_reset_and_hazards.md R230, R232): the reset values, or, where DHTDEC alone is
reset, those of the block with the timer's own. -/
theorem idleInv_of_reset {s t : State} (h : s.cur.tcnt < 2 ^ s.cfg.cntW) (hr : s.now.rst ≠ .run)
    (hs : step s = .next t) : IdleInv s.cfg t.cur := by
  rw [step_of_live (live_of_step hs)] at hs
  cases hk : s.now.rst with
  | run => exact absurd hk hr
  | system =>
    rw [hk] at hs
    cases hs
    exact idleInv_reset s.cfg
  | block =>
    simp only [hk, blockResetCycle] at hs
    split at hs
    · simp at hs
    · cases hs
      have hw := tcntNext_agents_lt (s := s.beginCycle.clearHistory.stage (Regs.blockReset s.cfg)) s.now.agentWr rfl h
      obtain ⟨a, b, m, n, wr, hag⟩ := applyAgentWrites_frame s.now.agentWr
        (s.beginCycle.clearHistory.stage (Regs.blockReset s.cfg))
      rw [hag] at hw ⊢
      exact (idleInv_reset s.cfg).with_timer a b m hw

/-- What every cycle without a trace leaves beside registers and records, reset cycles included. -/
theorem settled_of_step {s t : State} (ht : s.now.trace = none) (h : step s = .next t) :
    t.cfg = s.cfg ∧ t.nxt = t.cur ∧ t.cntWr = false ∧ t.inputs = s.inputs.tail := by
  by_cases hr : s.now.rst = .run
  · obtain ⟨us, -, hl⟩ := step_ordinary ⟨hr, ht⟩ h
    exact ⟨hl.cfg, hl.nxt, hl.cntWr, hl.inputs⟩
  · have hl := step_reset hr h
    exact ⟨hl.cfg, hl.nxt, hl.cntWr, hl.inputs⟩

theorem runInv_of_step {s t : State} (hi : RunInv s.cfg s.cur) (ht : s.now.trace = none) (h : step s = .next t) :
    RunInv s.cfg t.cur := by
  by_cases hr : s.now.rst = .run
  · obtain ⟨us, hc, -⟩ := step_ordinary ⟨hr, ht⟩ h
    exact hc.runInv hi
  · exact (idleInv_of_reset hi.cnt_width hr h).runInv

/-- Settles O47: an ordinary cycle by its cases, a reset cycle by the reset values. -/
theorem stepKeepsTheInvariant : Obligations.StepKeepsTheInvariant := by
  intro s t hi ht h
  obtain ⟨hcfg, hnxt, hwr, -⟩ := settled_of_step ht h
  exact ⟨hcfg ▸ runInv_of_step hi.regs ht h, hnxt, hwr⟩

/-! ## Every state reached -/

/-- A property that every step keeps holds of every state reached from one that has it. -/
theorem run_keeps {P : State → Prop} (hstep : ∀ s t, P s → step s = .next t → P t) {k : Nat} :
    ∀ {s t : State}, P s → Host.Core.run Sys2Proof.core k s = .next t → P t := by
  induction k with
  | zero =>
    intro s t hs h
    cases h
    exact hs
  | succ k ih =>
    intro s t hs h
    obtain ⟨u, hu, hr⟩ := run_succ_iff.1 h
    exact ih (hstep s u hs hu) hr

/-- The invariant, and no trace among the inputs to come. -/
structure UntracedInv (s : State) : Prop where
  inv : Inv s
  untraced : ∀ i ∈ s.inputs, i.trace = none

theorem UntracedInv.now {s : State} (h : UntracedInv s) : s.now.trace = none := by
  cases hi : s.inputs with
  | nil =>
    rw [now_of_nil hi]
    rfl
  | cons i is =>
    rw [now_of_cons hi]
    exact h.untraced i (by simp [hi])

theorem UntracedInv.step {s t : State} (h : UntracedInv s) (hs : step s = .next t) : UntracedInv t := by
  refine ⟨stepKeepsTheInvariant s t h.inv h.now hs, fun i hi => h.untraced i ?_⟩
  obtain ⟨-, -, -, hin⟩ := settled_of_step h.now hs
  exact List.mem_of_mem_tail (hin ▸ hi)

theorem inv_boot (c : Config) (ins : List CycleIn) : Inv (State.boot c ins) :=
  ⟨(idleInv_reset c).runInv, rfl, rfl⟩

/-- Settles O48: the invariant holds at power-up and every step keeps it. -/
theorem reachedStatesMeetR35 : Obligations.ReachedStatesMeetR35 := by
  intro c ins k t _ hins hrun
  exact (run_keeps (fun _ _ => UntracedInv.step) ⟨inv_boot c ins, hins⟩ hrun).inv.regs.spec

end Sys2Proof.Machine
end

section
/-! PROOFS. What the registers hold and who writes them: the codes of PHASE and REASON (10_state.md R21, 60_exceptions.md R200), the
host port's reads (43_host_interface.md R185-R192), STATUS (R27), the payload's bits (R23) and the writer of each register (R39). -/

namespace Sys2Proof.Machine

/-! ## Codes and reads -/

/-- Settles O6: both tables are closed lists. -/
theorem phaseAndReasonCodes : Obligations.PhaseAndReasonCodes := ⟨rfl, rfl⟩

/-- Settles O11: a read's word is 0, its address and WDATA, and its meaning is the host port's read of that address. -/
theorem readsPutTheRegisterOnRdata : Obligations.ReadsPutTheRegisterOnRdata := fun d _ =>
  ⟨⟨decodeHpw_read 0 d, decodeHpw_read 1 d, decodeHpw_read 2 d, decodeHpw_read 3 d, decodeHpw_read 4 d,
      decodeHpw_read 5 d, decodeHpw_read 6 d, decodeHpw_read 7 d⟩,
    rfl, rfl, rfl, rfl, rfl, rfl, rfl, rfl⟩

/-! ## STATUS -/

theorem statusByte_of_running {r : Regs} (h : Running r) : statusByte r = 0x01#8 := by
  simp [statusByte, h.busy, h.done, h.ok, h.reason, Reason.code]

theorem statusByte_before_any_exit {r : Regs} (hb : r.busy = false) (hd : r.done = false) (ho : r.ok = false)
    (hr : r.reason = .none) : statusByte r = 0x00#8 := by
  simp [statusByte, hb, hd, ho, hr, Reason.code]

theorem statusByte_of_success {r : Regs} (hb : r.busy = false) (hd : r.done = true) (ho : r.ok = true)
    (hr : r.reason = .none) : statusByte r = 0x06#8 := by
  simp [statusByte, hb, hd, ho, hr, Reason.code]

theorem statusByte_of_failure {r : Regs} (hb : r.busy = false) (hd : r.done = true) (ho : r.ok = false) :
    statusByte r = 0x02#8 ||| (r.reason.code.setWidth 8 <<< 4) := by
  unfold statusByte
  rw [hb, hd, ho]
  generalize r.reason.code = c
  revert c
  decide

/-- OK is set only with DONE (10_state.md R35, I7). -/
theorem RunInv.ok_of_not_done {c : Config} {r : Regs} (h : RunInv c r) (hd : r.done = false) : r.ok = false := by
  by_contra ho
  simp [(h.spec.ok_clean (by simpa using ho)).2] at hd

/-- Settles O51: in each state that BUSY, DONE and OK tell apart, the invariant gives REASON. -/
theorem statusReadsOnlyItsValues : Obligations.StatusReadsOnlyItsValues := by
  rintro s ⟨hi, -, -⟩
  refine ⟨rfl, rfl, fun _ => rfl, ?busy, ?never, ?success, ?failure⟩
  case busy => exact fun hb => statusByte_of_running (hi.running (hi.spec.busy_iff.1 hb))
  case never => exact fun hb hd => statusByte_before_any_exit hb hd (hi.ok_of_not_done hd) (hi.reason_unset hd)
  case success => exact fun hb hd ho => statusByte_of_success hb hd ho (hi.spec.ok_clean ho).1
  case failure => exact fun hb hd ho => ⟨hi.reason_set hd ho, statusByte_of_failure hb hd ho⟩

/-! ## The payload -/

/-- Of the bits shifted into a payload, the last stands in bit 0, the one before it in bit 1, and so on. -/
theorem getLsbD_foldl_shiftIn (p : BitVec 40) (bits : List Bool) :
    ∀ (i : Nat) (h : i < bits.length), i < 40 →
      (bits.foldl shiftIn p).getLsbD i = bits[bits.length - 1 - i] := by
  induction bits using List.reverseRecOn with
  | nil => exact fun i h => absurd h (Nat.not_lt_zero i)
  | append_singleton bs b ih =>
    intro i h h40
    rw [List.foldl_append, List.foldl_cons, List.foldl_nil, getLsbD_shiftIn]
    cases i with
    | zero => simp
    | succ j =>
      have hj : j < bs.length := by simpa using h
      have hidx : (bs ++ [b]).length - 1 - (j + 1) = bs.length - 1 - j := by
        rw [List.length_append, List.length_singleton]
        omega
      simp only [Nat.add_one_ne_zero, if_false, h40, decide_true, Bool.true_and, Nat.add_sub_cancel, ih j hj (by omega),
        hidx]
      exact (List.getElem_append_left (by omega)).symm

/-- Settles O36: bit 7 - (k mod 8) of byte k div 8 is bit 39 - k of the payload. -/
theorem bitsLandMostSignificantFirst : Obligations.BitsLandMostSignificantFirst := by
  intro bits hlen k hk
  have hpos : 8 * (4 - k / 8) + (7 - k % 8) = 39 - k := by omega
  have hidx : bits.length - 1 - (39 - k) = k := by omega
  rw [hpos, getLsbD_foldl_shiftIn 0#40 bits (39 - k) (by omega) (by omega)]
  simp only [hidx]

/-! ## The writer of each register

Each lemma names a group's writers: in every other case of a cycle the group is carried over as it stands, and the other agents,
who write in IDLE, touch the timer's registers only. -/

/-- The cycle accepts a FETCH (42_protocol_decoder.md R143). -/
def State.starts (s : State) : Prop := s.hostFetches = true ∧ s.cur.phase = .idle

section
variable {s : State} {us : List Uop} {r : Regs}

theorem CycleCase.bits_writer (h : CycleCase s us r) :
    (s.starts ∨ s.cur.phase = .bitHigh) ∨ r.bitcnt = s.cur.bitcnt ∧ r.payload = s.cur.payload := by
  cases h with
  | idle =>
    obtain ⟨a, b, m, n, hr⟩ := agentRegs_frame s
    simp [hr]
  | fetch hp hf => exact .inl (.inl ⟨hf, hp⟩)
  | bit _ hp => exact .inl (.inr hp)
  | lastBit _ hp => exact .inl (.inr hp)
  | _ => exact .inr ⟨rfl, rfl⟩

theorem CycleCase.snapshot_writer (h : CycleCase s us r) :
    s.starts ∨ r.snapA = s.cur.snapA ∧ r.snapB = s.cur.snapB ∧ r.snapM = s.cur.snapM := by
  cases h with
  | idle =>
    obtain ⟨a, b, m, n, hr⟩ := agentRegs_frame s
    simp [hr]
  | fetch hp hf => exact .inl ⟨hf, hp⟩
  | _ => exact .inr ⟨rfl, rfl, rfl⟩

theorem CycleCase.status_writer (h : CycleCase s us r) :
    (s.starts ∨ s.cur.phase ≠ .idle ∧ r.phase = .idle) ∨
      r.busy = s.cur.busy ∧ r.done = s.cur.done ∧ r.ok = s.cur.ok ∧ r.reason = s.cur.reason := by
  cases h with
  | idle =>
    obtain ⟨a, b, m, n, hr⟩ := agentRegs_frame s
    simp [hr]
  | fetch hp hf => exact .inl (.inl ⟨hf, hp⟩)
  | timeout hp => exact .inl (.inr ⟨(Phase.ne_of_polled hp).1, rfl⟩)
  | invalid hp => exact .inl (.inr ⟨by simp [hp], rfl⟩)
  | success hp => exact .inl (.inr ⟨by simp [hp], rfl⟩)
  | mismatch hp => exact .inl (.inr ⟨by simp [hp], rfl⟩)
  | _ => exact .inr ⟨rfl, rfl, rfl, rfl⟩

theorem CycleCase.data_writer (h : CycleCase s us r) :
    (s.cur.phase = .verify ∧ r.ok = true) ∨
      r.data0 = s.cur.data0 ∧ r.data1 = s.cur.data1 ∧ r.data2 = s.cur.data2 ∧ r.data3 = s.cur.data3 := by
  cases h with
  | idle =>
    obtain ⟨a, b, m, n, hr⟩ := agentRegs_frame s
    simp [hr]
  | success hp => exact .inl ⟨hp, rfl⟩
  | _ => exact .inr ⟨rfl, rfl, rfl, rfl⟩

theorem CycleCase.line_writer (h : CycleCase s us r) :
    (s.starts ∨ s.cur.phase = .requestStart) ∨ r.lineOe = s.cur.lineOe ∧ r.lineOut = s.cur.lineOut := by
  cases h with
  | idle =>
    obtain ⟨a, b, m, n, hr⟩ := agentRegs_frame s
    simp [hr]
  | fetch hp hf => exact .inl (.inl ⟨hf, hp⟩)
  | holdEnd hp => exact .inl (.inr hp)
  | _ => exact .inr ⟨rfl, rfl⟩

/-- Outside a run and its start the registers are what the other agents leave. -/
theorem CycleCase.eq_agentRegs (h : CycleCase s us r) : (s.starts ∨ s.cur.phase ≠ .idle) ∨ r = agentRegs s := by
  cases h with
  | idle => exact .inr rfl
  | fetch hp hf => exact .inl (.inl ⟨hf, hp⟩)
  | wait hp => exact .inl (.inr (Phase.ne_of_polled hp).1)
  | timeout hp => exact .inl (.inr (Phase.ne_of_polled hp).1)
  | pass _ hp => exact .inl (.inr (Phase.ne_of_polled (Phase.polled_of_pass hp).1).1)
  | _ => simp [*]

theorem CycleCase.context_writer (h : CycleCase s us r) :
    (s.starts ∨ s.cur.phase ≠ .idle) ∨ r.ctx = s.cur.ctx ∧ r.regime = s.cur.regime := by
  refine h.eq_agentRegs.imp_right fun he => ?_
  obtain ⟨a, b, m, n, hr⟩ := agentRegs_frame s
  simp [he, hr]

theorem CycleCase.timer_writer (h : CycleCase s us r) :
    (s.starts ∨ s.cur.phase ≠ .idle ∨ s.now.agentWr ≠ []) ∨
      r.tccra = s.cur.tccra ∧ r.tccrb = s.cur.tccrb ∧ r.timsk = s.cur.timsk := by
  by_cases ha : s.now.agentWr = []
  · exact h.eq_agentRegs.imp (Or.imp_right .inl) fun he => by simp [he, agentRegs_nil ha]
  · exact .inl (.inr (.inr ha))

end

/-- Settles O50: a group of registers that did not stay as it was has one of its writers. -/
theorem registersHaveTheirWriters : Obligations.RegistersHaveTheirWriters := by
  intro s t ho h
  obtain ⟨us, hc, -⟩ := step_ordinary ho h
  refine ⟨fun hne => hc.bits_writer.resolve_right ?_, fun hne => hc.snapshot_writer.resolve_right ?_,
    fun hne => hc.status_writer.resolve_right ?_, fun hne => hc.context_writer.resolve_right ?_,
    fun hne => hc.data_writer.resolve_right ?_, fun hne => hc.line_writer.resolve_right ?_,
    fun hne => hc.timer_writer.resolve_right ?_⟩ <;>
  simpa only [not_and_or] using hne

end Sys2Proof.Machine
end

section
/-! PROOFS. Other agents and the timer: a write in the ownership window stops the cycle (20_memory.md R60). -/

namespace Sys2Proof.Machine

theorem owns_beginCycle (s : State) : s.beginCycle.owns = s.owns := rfl

theorem agentWrites_of_owns {s : State} (hne : s.now.agentWr ≠ []) (hw : s.owns = true) :
    agentWrites s = .fault .timerOwnershipViolation := by
  simp [agentWrites, hne, hw]

/-- The other agents' writes come first in a cycle, so their fault is the cycle's answer whatever follows (log entry 18). -/
theorem runCycle_of_owns {s : State} (hne : s.now.agentWr ≠ []) (hw : s.owns = true) :
    runCycle s = .fault .timerOwnershipViolation := by
  have ha : agentWrites s.beginCycle = .fault .timerOwnershipViolation :=
    agentWrites_of_owns (s := s.beginCycle) hne ((owns_beginCycle s).trans hw)
  rw [runCycle, ha, andThen_fault]

/-- Settles O38: the hypothesis is the ownership window, with the host word 0x801 read as a FETCH. -/
theorem timerWriteInTheWindowFaults : Obligations.TimerWriteInTheWindowFaults := by
  intro s hl hr hne hwin
  have hw : s.owns = true := (owns_iff s).2 (hwin.imp_right (hostFetches_iff s).2)
  rw [step_of_run hl hr, runCycle_of_owns hne hw]

end Sys2Proof.Machine
end

section
/-! PROOFS. Encoding (30_encoding.md): the words of R73 and R75, every word against the instruction it decodes to, the classes of
R77 with what each does, and the assembler's words (R78, R79). -/

namespace Sys2Proof

/-! ## Host words and their fields -/

theorem HpwWord.ofBool_we (w : HpwWord) : BitVec.ofBool w.we = w.extractLsb' 11 1 := by
  ext i hi
  obtain rfl : i = 0 := by omega
  simp [HpwWord.we]

/-- A host word is its three fields in a row (30_encoding.md R70). -/
theorem HpwWord.fields_append (w : HpwWord) : (BitVec.ofBool w.we ++ w.addr ++ w.wdata : HpwWord) = w :=
  calc BitVec.ofBool w.we ++ w.addr ++ w.wdata
      = w.extractLsb' 11 1 ++ w.extractLsb' 8 3 ++ w.extractLsb' 0 8 := by
        rw [w.ofBool_we, HpwWord.addr, HpwWord.wdata]
    _ = w.extractLsb' 8 4 ++ w.extractLsb' 0 8 :=
        congrArg (· ++ w.extractLsb' 0 8) (BitVec.extractLsb'_append_extractLsb'_eq_extractLsb' (by decide))
    _ = w.extractLsb' 0 12 := BitVec.extractLsb'_append_extractLsb'_eq_extractLsb' (by decide)
    _ = w := BitVec.extractLsb'_eq_self

theorem HpwWord.hpwWrite_fields {w : HpwWord} (h : w.we = true) : hpwWrite w.addr w.wdata = w := by
  have hw := w.fields_append
  rwa [h] at hw

theorem HpwWord.hpwRead_fields {w : HpwWord} (h : w.we = false) : hpwRead w.addr w.wdata = w := by
  have hw := w.fields_append
  rwa [h] at hw

theorem decodeHpw_of_we {w : HpwWord} (h : w.we = true) : decodeHpw w = decodeWrite w.addr w.wdata := by
  simp [decodeHpw, h]

theorem decodeHpw_of_not_we {w : HpwWord} (h : w.we = false) : decodeHpw w = decodeRead w.addr w.wdata := by
  simp [decodeHpw, h]

/-- A write to address 0 is a command (30_encoding.md R74). -/
theorem decodeWrite_zero (d : Byte) : decodeWrite 0 d = decodeCmd d := rfl

theorem HostReg.ofNumber_addr : ∀ a : BitVec 3, (HostReg.ofNumber a.toNat).map HostReg.addr = some a := by decide

/-- Every address is a register's (20_memory.md R52), so a split over the addresses is one over the registers. -/
theorem HostReg.exists_addr_eq (a : BitVec 3) : ∃ r : HostReg, r.addr = a := by
  obtain ⟨r, -, hr⟩ := Option.map_eq_some_iff.1 (HostReg.ofNumber_addr a)
  exact ⟨r, hr⟩

/-! ## The word of a decoded instruction -/

theorem encode_decodeCmd (d : Byte) : encode (decodeCmd d) = .hpw (hpwWrite 0 d) := by
  unfold decodeCmd
  split_ifs with h0 h1
  · rw [h0, encode]
  · rw [h1, encode]
  · rw [encode]

theorem wellFormed_decodeCmd (d : Byte) : (decodeCmd d).wellFormed = true := by
  unfold decodeCmd
  split_ifs with h0 h1
  · rfl
  · rfl
  · simp [Instr.wellFormed, reservedCmdValue, h0, h1]

theorem encode_decodeWrite (a : BitVec 3) (d : Byte) : encode (decodeWrite a d) = .hpw (hpwWrite a d) := by
  obtain ⟨r, rfl⟩ := HostReg.exists_addr_eq a
  cases r with
  | cmd => exact encode_decodeCmd d
  | _ => rfl

theorem wellFormed_decodeWrite (a : BitVec 3) (d : Byte) : (decodeWrite a d).wellFormed = true := by
  obtain ⟨r, rfl⟩ := HostReg.exists_addr_eq a
  cases r with
  | cmd => exact wellFormed_decodeCmd d
  | _ => rfl

theorem encode_decodeRead (a : BitVec 3) (d : Byte) : encode (decodeRead a d) = .hpw (hpwRead a d) := by
  obtain ⟨r, rfl⟩ := HostReg.exists_addr_eq a
  cases r <;> rfl

theorem wellFormed_decodeRead (a : BitVec 3) (d : Byte) : (decodeRead a d).wellFormed = true := by
  obtain ⟨r, rfl⟩ := HostReg.exists_addr_eq a
  cases r <;> rfl

theorem encode_decodeHpw (w : HpwWord) : encode (decodeHpw w) = .hpw w := by
  cases hwe : w.we with
  | true => rw [decodeHpw_of_we hwe, encode_decodeWrite, HpwWord.hpwWrite_fields hwe]
  | false => rw [decodeHpw_of_not_we hwe, encode_decodeRead, HpwWord.hpwRead_fields hwe]

theorem wellFormed_decodeHpw (w : HpwWord) : (decodeHpw w).wellFormed = true := by
  cases hwe : w.we with
  | true => rw [decodeHpw_of_we hwe, wellFormed_decodeWrite]
  | false => rw [decodeHpw_of_not_we hwe, wellFormed_decodeRead]

theorem encode_decodeUop : ∀ u : UopCode, encode (decodeUop u) = .uop u := by decide

theorem wellFormed_decodeUop : ∀ u : UopCode, (decodeUop u).wellFormed = true := by decide

/-- Settles O3: a host word is a write's or a read's word of its own fields, and the sixteen codes are a closed list. -/
theorem encodeOfDecodeGivesTheWord : Obligations.EncodeOfDecodeGivesTheWord := by
  intro e
  cases e with
  | hpw w => exact ⟨encode_decodeHpw w, wellFormed_decodeHpw w⟩
  | uop u => exact ⟨encode_decodeUop u, wellFormed_decodeUop u⟩

/-- Settles O1: each host word is WE, ADDR and WDATA in a row. -/
theorem writtenOutWordsDecode : Obligations.WrittenOutWordsDecode :=
  ⟨decodeHpw_write 0 0x01, decodeHpw_write 0 0x00, decodeHpw_write 0 0xFF, decodeHpw_write 2 0x55,
    decodeHpw_read 1 0xAB, decodeHpw_read 7 0x00, rfl, rfl, rfl, rfl⟩

/-! ## The classes of host words -/

namespace Machine

/-- A read puts the register at its address on rdata, whatever WDATA holds (43_host_interface.md R180). -/
theorem exec_decodeRead (a : BitVec 3) (d : Byte) (s : State) :
    exec (decodeRead a d) s = .next (hostPortRead a s) := by
  obtain ⟨r, rfl⟩ := HostReg.exists_addr_eq a
  cases r <;> rfl

/-- A write to another address than CMD's is ignored (43 R183). -/
theorem exec_decodeWrite_of_ne_zero {a : BitVec 3} (d : Byte) (s : State) (h : a ≠ 0) :
    exec (decodeWrite a d) s = .next s := by
  obtain ⟨r, rfl⟩ := HostReg.exists_addr_eq a
  cases r with
  | cmd => exact absurd rfl h
  | _ => rfl

/-- Settles O4: WE tells reads from writes, and ADDR the ignored writes from those to CMD. -/
theorem hostWordsFallIntoClasses : Obligations.HostWordsFallIntoClasses := by
  refine fun w s => ⟨fun hwe => ?read, fun hwe haddr => ?ignored, fun hwe haddr => ?command⟩
  case read =>
    rw [decodeHpw_of_not_we hwe, exec_decodeRead]
    rfl
  case ignored => rw [decodeHpw_of_we hwe, exec_decodeWrite_of_ne_zero (a := w.addr) _ _ haddr]
  case command =>
    rw [decodeHpw_of_we hwe, show w.addr = 0 from haddr, decodeWrite_zero]
    rfl

end Machine

/-! ## The assembler -/

theorem toNat_hpwWrite (a : BitVec 3) (d : Byte) : (hpwWrite a d).toNat = 0x800 + 0x100 * a.toNat + d.toNat := by
  have h : ∀ a : BitVec 3, (1#1 ++ a).toNat = 8 + a.toNat := by decide
  rw [hpwWrite, Machine.toNat_append_bytes, h]
  omega

theorem assemble_wr_of_le (r : HostReg) {imm : Nat} (h : imm ≤ 255) :
    assemble (.wr r imm) = some (BitVec.ofNat 12 (0x800 + 0x100 * r.addr.toNat + imm)) := by
  rw [assemble, if_pos h, Option.some_inj, ← BitVec.toNat_inj, toNat_hpwWrite, BitVec.toNat_ofNat, BitVec.toNat_ofNat]
  omega

theorem assemble_wr_of_lt (r : HostReg) {imm : Nat} (h : 255 < imm) : assemble (.wr r imm) = none := by
  rw [assemble, if_neg (by omega)]

/-- Settles O7: a write's word is 0x800, its address times 0x100 and its literal; the other words are closed. -/
theorem assemblerWords : Obligations.AssemblerWords := by
  refine ⟨rfl, fun imm h => ?_, fun r imm => assemble_wr_of_lt r, rfl, rfl, rfl, fun _ => rfl, fun _ => rfl⟩
  simp [assemble_wr_of_le _ h, HostReg.addr]

end Sys2Proof
end

section
/-! PROOFS. The shared timer and its borrowing: the timer's micro-operations (40_timer_context.md R100-R104), a polled phase that
passes on the line (42_protocol_decoder.md R145-R148), and what a run does from its FETCH to its exit (40 R107, R108). -/

namespace Sys2Proof.Machine

/-! ## The timer's micro-operations -/

/-- Settles O18: the context is free or held, and `opAcquire` has one law for each. -/
theorem acquireSnapshotsTheTimer : Obligations.AcquireSnapshotsTheTimer := fun _ =>
  ⟨rfl, fun hfree => opAcquire_of_free hfree, fun hheld => opAcquire_of_held hheld⟩

/-- Settles O19: both operations are `opConfigure` with their own parameters. -/
theorem configureBorrowsTheTimer : Obligations.ConfigureBorrowsTheTimer := fun _ =>
  ⟨fun hheld => ⟨opConfigure_of_held _ _ _ _ hheld, opConfigure_of_held _ _ _ _ hheld⟩,
    fun hfree => ⟨opConfigure_of_free _ _ _ _ hfree, opConfigure_of_free _ _ _ _ hfree⟩⟩

/-- Settles O20: the statement is the definition of `opElapsed`, written out. -/
theorem elapsedReturnsTheCounter : Obligations.ElapsedReturnsTheCounter := fun _ => rfl

/-- Settles O21: the context is free or held, and `opRelease` has one law for each. -/
theorem releaseRestoresTheTimer : Obligations.ReleaseRestoresTheTimer := fun _ =>
  ⟨rfl, fun hheld => opRelease_of_held hheld, fun hfree => opRelease_of_free hfree⟩

/-! ## A polled phase that passes -/

/-- While DHTDEC does not drive the line, a sample is the environment's level (41_line_io.md R125). -/
theorem lineSample_of_released {s : State} (h : s.cur.lineOe = false) : s.lineSample = s.now.line := by
  simp [State.lineSample, wireLevel, h]

/-- Settles O31: the four statements are the case `CycleCase.pass` for the four pairs of phases it lists. -/
theorem polledPhasePassesOnTheLine : Obligations.PolledPhasePassesOnTheLine := by
  intro s hd hheld hoe
  have passes : ∀ p, (s.cur.phase, p) ∈ [(Phase.waitResponse, Phase.waitPreambleLow),
      (.waitPreambleLow, .waitPreambleHigh), (.waitPreambleHigh, .bitLow), (.bitLow, .bitHigh)] →
      s.now.line = s.cur.phase.exitLevel → ∃ t, step s = .next t ∧ t.cur = afterFine s p s.cur := by
    intro p hp hline
    have hsample : s.lineSample = s.cur.phase.exitLevel := (lineSample_of_released hoe).trans hline
    obtain ⟨t, hs, ht, -⟩ := step_of_case hd.live hd.ordinary (.pass p hp hd.no_fetch hd.alone hheld hsample)
    exact ⟨t, hs, ht⟩
  refine ⟨fun hp hl => passes _ ?_ ?_, fun hp hl => passes _ ?_ ?_, fun hp hl => passes _ ?_ ?_,
    fun hp hl => passes _ ?_ ?_⟩ <;>
  simp [hp, hl, Phase.exitLevel]

/-! ## The cycles of a run -/

/-- What holds of every listed input, and of the free ones, holds of the cycle's input. -/
theorem now_of_forall {P : CycleIn → Prop} (hfree : ∀ n, P (freeIn n)) {s : State} (h : ∀ i ∈ s.inputs, P i) :
    P s.now := by
  cases hi : s.inputs with
  | nil => exact now_of_nil hi ▸ hfree s.cycle
  | cons i is => exact now_of_cons hi ▸ h i (by simp [hi])

theorem ordinary_now {s : State} (h : ∀ i ∈ s.inputs, i.ordinary) : s.now.ordinary :=
  now_of_forall (fun _ => ⟨rfl, rfl⟩) h

theorem quiet_now {s : State} (h : ∀ i ∈ s.inputs, i.quiet) : s.now.quiet :=
  now_of_forall (fun _ => ⟨⟨rfl, rfl⟩, rfl, nofun⟩) h

/-- The inputs to come after a step are among those before it. -/
theorem Landed.forall_inputs {P : CycleIn → Prop} {s t : State} {us : List Uop} (hl : Landed s us t)
    (h : ∀ i ∈ s.inputs, P i) : ∀ i ∈ t.inputs, P i :=
  fun i hi => h i (List.mem_of_mem_tail (hl.inputs ▸ hi))

/-! ## How a run starts and ends -/

section
variable {s : State} {us : List Uop} {r : Regs}

/-- An accepted FETCH keeps the host's timer configuration in the snapshot (42_protocol_decoder.md R143, 40 R100). -/
theorem CycleCase.of_starts (h : CycleCase s us r) (hs : s.starts) :
    r.phase = .requestStart ∧ r.snapA = s.cur.tccra ∧ r.snapB = s.cur.tccrb ∧ r.snapM = s.cur.timsk := by
  obtain ⟨hf, hp⟩ := hs
  cases h with
  | fetch => exact ⟨rfl, rfl, rfl, rfl⟩
  | wait hq => exact absurd hp (Phase.ne_of_polled hq).1
  | timeout hq => exact absurd hp (Phase.ne_of_polled hq).1
  | _ => simp_all

/-- Every exit leaves the registers of a failure exit but for OK and DATA (60_exceptions.md R208, R209). -/
theorem CycleCase.eq_of_exit (h : CycleCase s us r) (hp : s.cur.phase ≠ .idle) (hr : r.phase = .idle) :
    ∃ reason o b0 b1 b2 b3,
      r = { afterFailure s reason with ok := o, data0 := b0, data1 := b1, data2 := b2, data3 := b3 } := by
  cases h with
  | timeout => exact ⟨_, _, _, _, _, _, rfl⟩
  | invalid => exact ⟨_, _, _, _, _, _, rfl⟩
  | success => exact ⟨_, _, _, _, _, _, rfl⟩
  | mismatch => exact ⟨_, _, _, _, _, _, rfl⟩
  | idle hq => exact absurd hq hp
  | fetch hq => exact absurd hq hp
  | hold => exact absurd hr hp
  | wait => exact absurd hr hp
  | pass p hq =>
    exact absurd hr (Phase.ne_of_polled (Phase.polled_of_pass hq).2.1).1
  | holdEnd => cases hr
  | bit => cases hr
  | lastBit => cases hr

end

/-- The cycles of a run (70_reset_and_hazards.md R237) one after the other: what its FETCH cycle establishes and each cycle
inside the run keeps holds at the start of the run's last cycle, the one that ends in IDLE. `P j` speaks of the state `j` cycles
after the FETCH. -/
theorem IsRun.last_cycle {s u : State} {k : Nat} (h : IsRun s k u) {P : Nat → State → Prop}
    (start : ∀ t us, CycleCase s us t.cur → Landed s us t → P 1 t)
    (keep : ∀ j x y us, P j x → x.cur.phase ≠ .idle → y.cur.phase ≠ .idle → CycleCase x us y.cur → Landed x us y →
      P (j + 1) y) :
    ∃ x us, P k x ∧ x.cur.phase ≠ .idle ∧ CycleCase x us u.cur ∧ Landed x us u := by
  have along : ∀ j, j + 1 ≤ k → ∀ x, Host.Core.run Sys2Proof.core (j + 1) s = .next x →
      (∀ i ∈ x.inputs, i.ordinary) ∧ P (j + 1) x := by
    intro j
    induction j with
    | zero =>
      intro _ x hx
      obtain ⟨v, hv, hs⟩ := run_succ_last hx
      cases hv
      obtain ⟨us, hc, hl⟩ := step_ordinary (ordinary_now h.ordinary) hs
      exact ⟨hl.forall_inputs h.ordinary, start x us hc hl⟩
    | succ j ih =>
      intro hj y hy
      obtain ⟨x, hx, hs⟩ := run_succ_last hy
      obtain ⟨ho, hP⟩ := ih (by omega) x hx
      obtain ⟨us, hc, hl⟩ := step_ordinary (ordinary_now ho) hs
      exact ⟨hl.forall_inputs ho, keep (j + 1) x y us hP (h.busy (j + 1) (by omega) (by omega) x hx)
        (h.busy (j + 2) (by omega) hj y hy) hc hl⟩
  obtain ⟨x, hx, hs⟩ := run_succ_last h.ends
  have hidle := h.idle
  cases k with
  | zero =>
    cases hx
    obtain ⟨us, hc, -⟩ := step_ordinary (ordinary_now h.ordinary) hs
    simp [(hc.of_starts ⟨h.fetch, h.entry⟩).1] at hidle
  | succ k =>
    obtain ⟨ho, hP⟩ := along k le_rfl x hx
    obtain ⟨us, hc, hl⟩ := step_ordinary (ordinary_now ho) hs
    exact ⟨x, us, hP, h.busy (k + 1) (by omega) le_rfl x hx, hc, hl⟩

/-- Settles O52: the FETCH cycle saves the timer in the snapshot, no other cycle of the run writes the snapshot, and the exit
restores from it. -/
theorem runRestoresTheTimer : Obligations.RunRestoresTheTimer := by
  intro s k u h
  obtain ⟨x, us, ⟨ha, hb, hm⟩, hx, hc, -⟩ := h.last_cycle
    (P := fun _ x => x.cur.snapA = s.cur.tccra ∧ x.cur.snapB = s.cur.tccrb ∧ x.cur.snapM = s.cur.timsk)
    (start := fun t us hc _ => (hc.of_starts ⟨h.fetch, h.entry⟩).2)
    (keep := fun j x y us hP hx _ hc _ => by
      obtain ⟨ha, hb, hm⟩ := hc.snapshot_writer.resolve_left fun hs => hx hs.2
      rwa [ha, hb, hm])
  obtain ⟨reason, o, b0, b1, b2, b3, hu⟩ := hc.eq_of_exit hx h.idle
  rw [hu]
  exact ⟨ha, hb, hm⟩

/-! ## ACQUIRE and RELEASE among the records -/

section
variable {s : State} {us : List Uop} {r : Regs}

/-- A cycle issues one ACQUIRE where it accepts a FETCH, and none else (40_timer_context.md R107). -/
theorem CycleCase.count_acquire (h : CycleCase s us r) :
    us.count .acquire = if s.cur.phase = .idle ∧ s.hostFetches = true then 1 else 0 := by
  cases h with
  | fetch hp hf => rw [if_pos ⟨hp, hf⟩]; rfl
  | pass _ _ hf => simp [hf]
  | bit _ _ hf => simp [hf]
  | lastBit _ _ hf => simp [hf]
  | _ _ hf => simp [hf]

/-- A cycle issues one RELEASE where it ends a run, and none else (40 R107). -/
theorem CycleCase.count_release (h : CycleCase s us r) :
    us.count .release = if s.cur.phase ≠ .idle ∧ r.phase = .idle then 1 else 0 := by
  cases h with
  | timeout hp => rw [if_pos ⟨(Phase.ne_of_polled hp).1, rfl⟩]; rfl
  | invalid hp => rw [if_pos ⟨by simp [hp], rfl⟩]; rfl
  | success hp => rw [if_pos ⟨by simp [hp], rfl⟩]; rfl
  | mismatch hp => rw [if_pos ⟨by simp [hp], rfl⟩]; rfl
  | idle hp => simp [hp]
  | fetch => simp
  | hold hp => simp [hp]
  | holdEnd => simp [afterFine]
  | wait hp => simp
  | pass p hp => simp [afterFine, (Phase.ne_of_polled (Phase.polled_of_pass hp).2.1).1]
  | bit => simp [afterFine]
  | lastBit => simp

end

/-- The records of a cycle that issues the micro-operations `us` (10_state.md R37). -/
def State.records (s : State) (us : List Uop) : List Event := s.hostRecord ++ us.map (Event.uop s.cycle)

theorem Landed.history_eq {s t : State} {us : List Uop} (h : Landed s us t) :
    t.history = s.history ++ s.records us := by
  rw [h.history, State.records, List.append_assoc]

theorem countP_records (s : State) (us : List Uop) (u : Uop) :
    (s.records us).countP (Event.isUop u) = us.count u := by
  have hhost : s.hostRecord.countP (Event.isUop u) = 0 := by
    unfold State.hostRecord
    split <;> rfl
  rw [State.records, List.countP_append, hhost, Nat.zero_add, List.countP_map, List.count]
  rfl

theorem mem_records_iff (s : State) (us : List Uop) (u : Uop) :
    Event.uop s.cycle u ∈ s.records us ↔ 0 < us.count u := by
  have hhost : Event.uop s.cycle u ∉ s.hostRecord := by
    unfold State.hostRecord
    split <;> simp
  simp [State.records, hhost, List.count_pos_iff]

/-- `j` cycles after the FETCH of the cycle `s` the run is open: one ACQUIRE is recorded, in the FETCH cycle, and no RELEASE. -/
structure OpenBracket (s : State) (j : Nat) (x : State) : Prop where
  cycle : x.cycle = s.cycle + j
  records : ∃ l, x.history = s.history ++ l ∧ l.countP (Event.isUop .acquire) = 1 ∧
    Event.uop s.cycle .acquire ∈ l ∧ l.countP (Event.isUop .release) = 0

theorem openBracket_of_fetch {s t : State} {us : List Uop} (hp : s.cur.phase = .idle) (hf : s.hostFetches = true)
    (hc : CycleCase s us t.cur) (hl : Landed s us t) : OpenBracket s 1 t := by
  have hacq : us.count .acquire = 1 := hc.count_acquire.trans (if_pos ⟨hp, hf⟩)
  have hrel : us.count .release = 0 := hc.count_release.trans (if_neg fun he => he.1 hp)
  refine ⟨hl.cycle, s.records us, hl.history_eq, ?_, (mem_records_iff ..).2 (by omega), ?_⟩
  · rw [countP_records, hacq]
  · rw [countP_records, hrel]

/-- A cycle inside a run adds neither an ACQUIRE nor a RELEASE. -/
theorem OpenBracket.step {s x y : State} {j : Nat} {us : List Uop} (h : OpenBracket s j x)
    (hx : x.cur.phase ≠ .idle) (hy : y.cur.phase ≠ .idle) (hc : CycleCase x us y.cur) (hl : Landed x us y) :
    OpenBracket s (j + 1) y := by
  have hacq : us.count .acquire = 0 := hc.count_acquire.trans (if_neg fun hs => hx hs.1)
  have hrel : us.count .release = 0 := hc.count_release.trans (if_neg fun he => hy he.2)
  obtain ⟨hcyc, l, hh, hone, hmem, hnone⟩ := h
  refine ⟨by rw [hl.cycle, hcyc, Nat.add_assoc], l ++ x.records us, ?_, ?_, List.mem_append_left _ hmem, ?_⟩
  · rw [hl.history_eq, hh, List.append_assoc]
  · rw [List.countP_append, hone, countP_records, hacq]
  · rw [List.countP_append, hnone, countP_records, hrel]

/-- Settles O54: the FETCH cycle opens the bracket, the cycles inside the run leave it open, the exit's RELEASE closes it; and
the two counts of a cycle's own records say where else an ACQUIRE or a RELEASE can stand. -/
theorem acquireAndReleaseBracketEveryRun : Obligations.AcquireAndReleaseBracketEveryRun := by
  constructor
  · intro s k u h
    obtain ⟨x, us, ⟨hcyc, l, hh, hone, hmem, hnone⟩, hx, hc, hl⟩ := h.last_cycle (P := OpenBracket s)
      (start := fun t us hc hl => openBracket_of_fetch h.entry h.fetch hc hl)
      (keep := fun j x y us hP hx hy hc hl => hP.step hx hy hc hl)
    have hacq : us.count .acquire = 0 := hc.count_acquire.trans (if_neg fun hs => hx hs.1)
    have hrel : us.count .release = 1 := hc.count_release.trans (if_pos ⟨hx, h.idle⟩)
    refine ⟨l ++ x.records us, ?_, ?_, List.mem_append_left _ hmem, ?_, List.mem_append_right _ ?_⟩
    · rw [hl.history_eq, hh, List.append_assoc]
    · rw [List.countP_append, hone, countP_records, hacq]
    · rw [List.countP_append, hnone, countP_records, hrel]
    · rw [← hcyc, mem_records_iff, hrel]
      exact Nat.one_pos
  · intro s t ho hstep
    obtain ⟨us, hc, hl⟩ := step_ordinary ho hstep
    refine ⟨s.records us, hl.history_eq, ?_, ?_⟩
    · rw [mem_records_iff, hc.count_acquire]
      split <;> simp_all
    · rw [mem_records_iff, hc.count_release]
      split <;> simp_all

end Sys2Proof.Machine
end

section
/-! PROOFS. The end of a run: the ticks it can still take go down with every tick (42_protocol_decoder.md R156), so a run that meets
only quiet cycles ends, and one from a clean entry (70_reset_and_hazards.md R236) ends clean. -/

namespace Sys2Proof.Machine

/-! ## The tick of a run's cycle -/

/-- In a run the timer has one of the two configurations that make it count (00_scope.md R8, PC4). -/
theorem RunInv.timerRunning {s : State} (h : RunInv s.cfg s.cur) (hlegal : s.cfg.legal = true)
    (hp : s.cur.phase ≠ .idle) : s.timerRunning = true := by
  obtain ⟨hcoarse, hfine⟩ := legal_running hlegal
  have hreleased : s.cur.phase.released = true → s.timerRunning = true := by
    intro hr
    obtain ⟨ha, hb, -⟩ := h.fine hr
    rwa [State.timerRunning, ha, hb]
  obtain hq | hq | hq | hq := phase_kinds s.cur.phase
  · exact absurd hq hp
  · obtain ⟨ha, hb, -⟩ := h.coarse hq
    rwa [State.timerRunning, ha, hb]
  · exact hreleased (Phase.released_of_polled hq)
  · exact hreleased (by rw [hq]; rfl)

/-- A counter below its top moves by the cycle's tick. -/
theorem RunInv.counted_eq {s : State} (h : RunInv s.cfg s.cur) (hlegal : s.cfg.legal = true)
    (hp : s.cur.phase ≠ .idle) (hlt : s.cur.tcnt + 1 < 2 ^ s.cfg.cntW) :
    s.counted = s.cur.tcnt + (if s.now.tick then 1 else 0) := by
  rw [State.counted, State.ticks, h.timerRunning hlegal hp, Bool.and_true]
  split
  · exact Nat.mod_eq_of_lt hlt
  · rfl

/-! ## The ticks a run can still take -/

/-- A phase that counts `d` more takes `d` off the ticks left, while the count does not pass the phase's end. -/
theorem ticksLeft_count {c : Config} {r : Regs} {d : Nat} (hd : d ≤ 1)
    (h : r.phase = .requestStart ∧ r.tcnt < c.tReq ∨ r.phase.polled = true ∧ r.tcnt ≤ r.phase.bound c) :
    ticksLeft c { r with tcnt := r.tcnt + d } + d ≤ ticksLeft c r := by
  obtain ⟨hp, ht⟩ | ⟨hp, ht⟩ := h
  · simp only [ticksLeft, hp]
    omega
  · obtain hq | hq | hq | hq | hq := phase_polled_ne hp <;>
    · simp only [hq, Phase.bound] at ht
      simp only [ticksLeft, hq]
      omega

theorem ticksLeft_idle {c : Config} {r : Regs} (hp : r.phase = .idle) : ticksLeft c r = 0 := by
  simp [ticksLeft, hp]

/-- A run in any of its phases can take one more tick, that of the phase's exit cycle. -/
theorem ticksLeft_pos {c : Config} {r : Regs} (hp : r.phase ≠ .idle) : 1 ≤ ticksLeft c r := by
  cases hq : r.phase with
  | idle => exact absurd hq hp
  | _ =>
    simp only [ticksLeft, hq, bitsTicks]
    omega

/-- What is left at the start of a bit slot before the 40th bit: 40 slots less the bits received, and VERIFY. -/
theorem ticksLeft_slot {c : Config} {r : Regs} (hp : r.phase = .bitLow) (ht : r.tcnt = 0) (hn : r.bitcnt.toNat < 40) :
    ticksLeft c r = (40 - r.bitcnt.toNat) * slotTicks c + 1 := by
  have hslots : 40 - r.bitcnt.toNat = (39 - r.bitcnt.toNat) + 1 := by omega
  simp only [ticksLeft, hp, ht, hslots, Nat.succ_mul, slotTicks]
  omega

/-- A phase that passes on the line has its exit cycle's tick in hand (42_protocol_decoder.md R145-R148). -/
theorem ticksLeft_pass {s : State} {p : Phase}
    (hp : (s.cur.phase, p) ∈ [(Phase.waitResponse, Phase.waitPreambleLow), (.waitPreambleLow, .waitPreambleHigh),
      (.waitPreambleHigh, .bitLow), (.bitLow, .bitHigh)]) (h : RunInv s.cfg s.cur) :
    ticksLeft s.cfg (afterFine s p s.cur) + 1 ≤ ticksLeft s.cfg s.cur := by
  have hbound := h.cnt_bound (Phase.polled_of_pass hp).1
  simp only [List.mem_cons, Prod.mk.injEq, List.not_mem_nil, or_false] at hp
  obtain ⟨hq, rfl⟩ | ⟨hq, rfl⟩ | ⟨hq, rfl⟩ | ⟨hq, rfl⟩ := hp
  case inr.inr.inl =>
    have hzero : s.cur.bitcnt = 0 := h.no_bits (by rw [hq]; rfl)
    have hslots : ticksLeft s.cfg (afterFine s .bitLow s.cur) = bitsTicks s.cfg := by
      rw [ticksLeft_slot rfl rfl] <;> simp [afterFine, hzero, bitsTicks]
    simp only [hq, Phase.bound] at hbound
    rw [hslots]
    simp only [ticksLeft, hq]
    omega
  all_goals
    simp only [hq, Phase.bound] at hbound
    simp only [ticksLeft, hq, afterFine]
    omega

/-- BIT_HIGH has its exit cycle's tick in hand beside the slots of the bits to come (42 R151). -/
theorem RunInv.slots_lt_ticksLeft {c : Config} {r : Regs} (h : RunInv c r) (hp : r.phase = .bitHigh) :
    (39 - r.bitcnt.toNat) * slotTicks c + 1 < ticksLeft c r := by
  have hbound := h.cnt_bound (by rw [hp]; rfl)
  simp only [hp, Phase.bound] at hbound
  simp only [ticksLeft, hp]
  omega

/-- Every cycle of a run takes its tick off the ticks left. -/
theorem CycleCase.ticksLeft_le {s : State} {us : List Uop} {r : Regs} (hc : CycleCase s us r)
    (h : RunInv s.cfg s.cur) (hlegal : s.cfg.legal = true) (hp : s.cur.phase ≠ .idle) :
    ticksLeft s.cfg r + (if s.now.tick then 1 else 0) ≤ ticksLeft s.cfg s.cur := by
  have hpos := ticksLeft_pos (c := s.cfg) hp
  obtain ⟨hreq, hpoll⟩ := legal_bounds hlegal
  have htick : (if s.now.tick then 1 else 0) ≤ 1 := by split <;> omega
  have counts (hlt : s.cur.tcnt + 1 < 2 ^ s.cfg.cntW)
      (hend : s.cur.phase = .requestStart ∧ s.cur.tcnt < s.cfg.tReq ∨
        s.cur.phase.polled = true ∧ s.cur.tcnt ≤ s.cur.phase.bound s.cfg) :
      ticksLeft s.cfg { s.cur with tcnt := s.counted } + (if s.now.tick then 1 else 0) ≤ ticksLeft s.cfg s.cur := by
    rw [h.counted_eq hlegal hp hlt]
    exact ticksLeft_count htick hend
  have exits (hr : r.phase = .idle) :
      ticksLeft s.cfg r + (if s.now.tick then 1 else 0) ≤ ticksLeft s.cfg s.cur := by
    rw [ticksLeft_idle hr]
    omega
  cases hc with
  | idle hq => exact absurd hq hp
  | fetch hq => exact absurd hq hp
  | hold hq _ _ ht => exact counts (by omega) (.inl ⟨hq, ht⟩)
  | holdEnd hq =>
    obtain ⟨-, -, -, hle⟩ := h.coarse hq
    simp only [ticksLeft, hq, afterFine]
    omega
  | wait hq _ _ _ ht =>
    have := hpoll _ hq
    exact counts (by omega) (.inr ⟨hq, ht⟩)
  | pass p hq =>
    have := ticksLeft_pass hq h
    omega
  | bit b hq _ _ _ _ _ hn =>
    have hlt := h.spec.bitcnt_lt (.inr hq)
    have hslots := h.slots_lt_ticksLeft hq
    have hnext : 40 - (s.cur.bitcnt + 1).toNat = 39 - s.cur.bitcnt.toNat := by bv_omega
    rw [ticksLeft_slot rfl rfl (bitcnt_succ_lt hlt hn)]
    simp only [afterFine, hnext]
    omega
  | lastBit b hq =>
    have hslots := h.slots_lt_ticksLeft hq
    change 1 + _ ≤ _
    omega
  | timeout => exact exits rfl
  | invalid => exact exits rfl
  | success => exact exits rfl
  | mismatch => exact exits rfl

/-! ## Runs that meet only quiet cycles -/

/-- No case of a run's cycle is missing: with the context held and the port and the other agents quiet, one applies. -/
theorem exists_cycleCase {s : State} (hp : s.cur.phase ≠ .idle) (hheld : s.cur.ctx = .held)
    (hf : s.hostFetches = false) (ha : s.now.agentWr = []) : ∃ us r, CycleCase s us r := by
  obtain hq | hq | hq | hq := phase_kinds s.cur.phase
  · exact absurd hq hp
  · by_cases ht : s.cur.tcnt < s.cfg.tReq
    · exact ⟨_, _, .hold hq hf ha ht⟩
    · exact ⟨_, _, .holdEnd hq hf ha hheld (Nat.not_lt.1 ht)⟩
  · by_cases hline : s.lineSample = s.cur.phase.exitLevel
    · obtain hq | hq | hq | hq | hq := phase_polled_ne hq
      · exact ⟨_, _, .pass .waitPreambleLow (by simp [hq]) hf ha hheld hline⟩
      · exact ⟨_, _, .pass .waitPreambleHigh (by simp [hq]) hf ha hheld hline⟩
      · exact ⟨_, _, .pass .bitLow (by simp [hq]) hf ha hheld hline⟩
      · exact ⟨_, _, .pass .bitHigh (by simp [hq]) hf ha hheld hline⟩
      · have hlow : s.lineSample = false := by rw [hline, hq]; rfl
        have accepts (b : Bool) (hw : classify s.cfg s.cur.tcnt = if b then .bit1 else .bit0) :
            ∃ us r, CycleCase s us r := by
          by_cases hn : s.cur.bitcnt + 1 = 40#6
          · exact ⟨_, _, .lastBit b hq hf ha hlow hw hn⟩
          · exact ⟨_, _, .bit b hq hf ha hheld hlow hw hn⟩
        cases hw : classify s.cfg s.cur.tcnt with
        | bit0 => exact accepts false hw
        | bit1 => exact accepts true hw
        | invalid => exact ⟨_, _, .invalid hq hf ha hheld hlow hw⟩
    · by_cases ht : s.cur.tcnt ≤ s.cur.phase.bound s.cfg
      · exact ⟨_, _, .wait hq hf ha hline ht⟩
      · exact ⟨_, _, .timeout hq hf ha hheld hline (Nat.not_le.1 ht)⟩
  · by_cases hsum : checksum (payloadByte0 s.cur.payload) (payloadByte1 s.cur.payload) (payloadByte2 s.cur.payload)
        (payloadByte3 s.cur.payload) = payloadByte4 s.cur.payload
    · exact ⟨_, _, .success hq hf ha hheld hsum⟩
    · exact ⟨_, _, .mismatch hq hf ha hheld hsum⟩

theorem hostFetches_of_quiet {s : State} (h : s.now.quiet) : s.hostFetches = false := by
  obtain ⟨-, -, hword⟩ := h
  by_contra hf
  exact hword ((hostFetches_iff s).1 (by simpa using hf))

/-- A live machine in a run, with only quiet cycles to come. -/
structure QuietRun (s : State) : Prop where
  live : s.live
  inv : Inv s
  busy : s.cur.phase ≠ .idle
  quiet : ∀ i ∈ s.inputs, i.quiet

/-- A live machine after a run. -/
structure Ended (s : State) : Prop where
  live : s.live
  idle : s.cur.phase = .idle
  done : s.cur.done = true

/-- A quiet cycle of a run answers a next state, in the run or after it, with the cycle's tick off the ticks left. -/
theorem QuietRun.step {s : State} (h : QuietRun s) :
    ∃ t, step s = .next t ∧ t.cfg = s.cfg ∧ t.inputs = s.inputs.tail ∧ (QuietRun t ∨ Ended t) ∧
      ticksLeft t.cfg t.cur + (if s.now.tick then 1 else 0) ≤ ticksLeft s.cfg s.cur := by
  have hf := hostFetches_of_quiet (quiet_now h.quiet)
  obtain ⟨ho, ha, -⟩ := quiet_now h.quiet
  obtain ⟨us, r, hc⟩ := exists_cycleCase h.busy (h.inv.regs.running h.busy).ctx hf ha
  obtain ⟨t, hs, rfl, hl⟩ := step_of_case h.live ho hc
  have hlive : t.live := ⟨hl.faulted.trans h.live.1, hl.cfg ▸ h.live.2⟩
  refine ⟨t, hs, hl.cfg, hl.inputs, ?_, hl.cfg ▸ hc.ticksLeft_le h.inv.regs h.live.2 h.busy⟩
  by_cases ht : t.cur.phase = .idle
  · obtain ⟨reason, o, b0, b1, b2, b3, hr⟩ := hc.eq_of_exit h.busy ht
    exact .inr ⟨hlive, ht, by rw [hr]; rfl⟩
  · exact .inl ⟨hlive, stepKeepsTheInvariant s t h.inv ho.2 hs, ht, hl.forall_inputs h.quiet⟩

/-- With enough ticks among the cycles to come the run ends within them, and up to its end every cycle is one of the run. -/
theorem QuietRun.exists_end (ins : List CycleIn) : ∀ {s : State}, s.inputs = ins → QuietRun s →
    ticksLeft s.cfg s.cur ≤ ins.countP (fun i => i.tick) →
    ∃ k u, k + 1 ≤ ins.length ∧ Host.Core.run Sys2Proof.core (k + 1) s = .next u ∧ Ended u ∧
      ∀ j, j ≤ k → ∀ x, Host.Core.run Sys2Proof.core j s = .next x → QuietRun x := by
  induction ins with
  | nil =>
    intro s _ h hticks
    have hpos := ticksLeft_pos (c := s.cfg) h.busy
    simp at hticks
    omega
  | cons i is ih =>
    intro s hins h hticks
    obtain ⟨t, hs, hcfg, htail, hnext, hle⟩ := h.step
    rw [now_of_cons hins] at hle
    rw [List.countP_cons] at hticks
    obtain ht | ht := hnext
    · obtain ⟨k, u, hk, hrun, hend, hin⟩ := ih (by rw [htail, hins]; rfl) ht (by omega)
      refine ⟨k + 1, u, by simpa using hk, run_succ_iff.2 ⟨t, hs, hrun⟩, hend, fun j hj x hx => ?_⟩
      cases j with
      | zero => cases hx; exact h
      | succ j =>
        obtain ⟨t', hs', hx⟩ := run_succ_iff.1 hx
        obtain rfl : t = t' := by simpa [hs] using hs'
        exact hin j (by omega) x hx
    · refine ⟨0, t, by simp, run_succ_iff.2 ⟨t, hs, rfl⟩, ht, fun j hj x hx => ?_⟩
      obtain rfl : j = 0 := by omega
      cases hx
      exact h

/-- Settles O55: the induction over the inputs to come, each tick of which is taken off the ticks left. -/
theorem runEndsWithinItsTicks : Obligations.RunEndsWithinItsTicks := by
  intro s hlive hinv hbusy hquiet hticks
  obtain ⟨k, u, hk, hrun, hend, -⟩ := QuietRun.exists_end s.inputs rfl ⟨hlive, hinv, hbusy, hquiet⟩ hticks
  exact ⟨k + 1, hk, u, hrun, hend.idle, hend.done⟩

/-! ## Clean runs -/

/-- A quiet cycle keeps D-H1 and D-H2 (43_host_interface.md R193). -/
theorem QuietRun.duties {s : State} (h : QuietRun s) : s.dutyFetch ∧ s.dutyTimer := by
  have hno := hostFetches_of_quiet (quiet_now h.quiet)
  obtain ⟨-, ha, -⟩ := quiet_now h.quiet
  refine ⟨fun hf => ?_, fun _ => ha⟩
  simp [hno] at hf

/-- The FETCH cycle of a clean entry, whatever the timer, DATA and STATUS hold (42_protocol_decoder.md R143). -/
theorem step_of_cleanEntry {s : State} (he : s.cleanEntry) (hf : s.hostFetches = true) (ho : s.now.ordinary)
    (ha : s.now.agentWr = []) (hquiet : ∀ i ∈ s.inputs.tail, i.quiet) :
    ∃ t, step s = .next t ∧ t.cfg = s.cfg ∧ t.inputs = s.inputs.tail ∧ QuietRun t ∧
      t.cur.phase = .requestStart ∧ t.cur.tcnt = 0 := by
  obtain ⟨t, hs, ht, hl⟩ := step_of_case ⟨he.faulted, he.legal⟩ ho (.fetch he.phase hf ha he.ctx)
  have hinv : RunInv t.cfg t.cur := by
    rw [hl.cfg, ht]
    exact runInv_fetch s.cfg s.cur
  refine ⟨t, hs, hl.cfg, hl.inputs, ⟨⟨hl.faulted.trans he.faulted, hl.cfg ▸ he.legal⟩, ⟨hinv, hl.nxt, hl.cntWr⟩, ?_,
    hl.inputs ▸ hquiet⟩, ?_, ?_⟩ <;>
  simp [ht]

/-- At the start of the request hold every tick of the run is left (42 R156). -/
theorem ticksLeft_at_start {c : Config} {r : Regs} (hp : r.phase = .requestStart) (ht : r.tcnt = 0) :
    ticksLeft c r = (c.tReq + 1) + (c.tResp + 2) + (c.tPreLow + 2) + (c.tPreHigh + 2) +
      40 * ((c.tBitLow + 2) + (c.tBitHigh + 2)) + 1 := by
  simp only [ticksLeft, hp, ht, bitsTicks, slotTicks]
  omega

/-- Ordinary cycles in which the host writes no reserved command leave REFUSED as it is (43 R193, D-H5). -/
theorem refused_of_run {n : Nat} : ∀ {s u : State}, Host.Core.run Sys2Proof.core n s = .next u →
    (∀ j, j < n → ∀ x, Host.Core.run Sys2Proof.core j s = .next x → x.now.ordinary ∧ x.dutyCommand) →
    u.refused = s.refused := by
  induction n with
  | zero =>
    intro s u h _
    cases h
    rfl
  | succ n ih =>
    intro s u h hduty
    obtain ⟨x, hx, hs⟩ := run_succ_last h
    obtain ⟨ho, hcmd⟩ := hduty n n.lt_succ_self x hx
    obtain ⟨us, -, hl⟩ := step_ordinary ho hs
    exact (hl.unmarked hcmd).trans (ih hx fun j hj => hduty j (by omega))

/-- Settles O57: the FETCH cycle starts a run whose every tick is left, and the run that follows ends before the quiet cycles
do. -/
theorem cleanEntryLeadsToACleanRun : Obligations.CleanEntryLeadsToACleanRun := by
  intro s he hf ho ha hquiet hticks
  obtain ⟨t, hs, hcfg, htail, ht, hp, hcnt⟩ := step_of_cleanEntry he hf ho ha hquiet
  rw [← ticksLeft_at_start hp hcnt, ← hcfg] at hticks
  obtain ⟨k, u, hk, hrun, hend, hin⟩ := QuietRun.exists_end s.inputs.tail htail ht hticks
  have inside : ∀ j, 1 ≤ j → j ≤ k + 1 → ∀ x, Host.Core.run Sys2Proof.core j s = .next x → QuietRun x := by
    intro j h1 hj x hx
    obtain ⟨j, rfl⟩ := Nat.exists_eq_add_of_le' h1
    obtain ⟨t', hs', hx⟩ := run_succ_iff.1 hx
    obtain rfl : t = t' := by simpa [hs] using hs'
    exact hin j (by omega) x hx
  refine ⟨k + 1, u, hk, ⟨⟨?ordinary, he.phase, hf, run_succ_iff.2 ⟨t, hs, hrun⟩, hend.idle, ?busy⟩, he, ?duties⟩,
    hend.done, hend.live.1, ?refused⟩
  case ordinary =>
    intro i hi
    cases hins : s.inputs with
    | nil => simp [hins] at hi
    | cons i₀ is =>
      rw [now_of_cons hins] at ho
      rw [hins] at hi hquiet
      obtain rfl | hi := List.mem_cons.1 hi
      · exact ho
      · exact (hquiet i hi).1
  case busy => exact fun j h1 hj x hx => (inside j h1 hj x hx).busy
  case duties =>
    intro j hj x hx
    obtain rfl | h1 := Nat.eq_zero_or_pos j
    · cases hx
      exact ⟨fun _ => he.busy, fun _ => ha⟩
    · exact (inside j h1 hj x hx).duties
  case refused =>
    intro hcmd
    refine (refused_of_run (run_succ_iff.2 ⟨t, hs, hrun⟩) fun j hj x hx => ⟨?_, hcmd j (by omega) x hx⟩).trans he.refused
    obtain rfl | h1 := Nat.eq_zero_or_pos j
    · cases hx
      exact ho
    · exact (quiet_now (inside j h1 (by omega) x hx).quiet).1

end Sys2Proof.Machine
end

section
/-! PROOFS. The line's micro-operations (41_line_io.md R120-R124), and the micro-operations that each cycle of the decoder issues
(41 R126, 42_protocol_decoder.md R142-R152). -/

namespace Sys2Proof.Machine

/-! ## The line's micro-operations -/

/-- Settles O24: a line operation is its one staged write and its record. -/
theorem lineOutputsAreWritten : Obligations.LineOutputsAreWritten := fun _ =>
  ⟨by decide, rfl, rfl, rfl, rfl⟩

/-- A sample is 0 while DHTDEC pulls the line low, else the environment's level (41_line_io.md R125). -/
theorem lineSample_eq (s : State) :
    s.lineSample = if s.cur.lineOe = true ∧ s.cur.lineOut = false then false else s.now.line := by
  simp [State.lineSample, wireLevel]

/-- Settles O25: LINE_READ answers the cycle's sample. -/
theorem lineReadSamplesTheWire : Obligations.LineReadSamplesTheWire := by
  intro s
  rw [← lineSample_eq]
  rfl

/-! ## The micro-operations of a cycle -/

/-- What a cycle of the polled phase `p` issues when `q` is the next cycle's phase: the sample and the count, then CFG_FINE for a
new polled phase or RELEASE for an exit (42_protocol_decoder.md R141, R145-R151). -/
def polledUops (p q : Phase) : List Uop :=
  [.lineRead, .elapsed] ++
    if q.polled = true ∧ q ≠ p then [.cfgFine] else if q = .idle then [.release] else []

/-- What a decoder cycle issues, by its phase and the next one (42 R142-R152). -/
def phaseUops (s : State) (q : Phase) : List Uop :=
  match s.cur.phase with
  | .idle => []
  | .requestStart => if s.cur.tcnt < s.cfg.tReq then [.elapsed] else [.elapsed, .lineHigh, .dirIn, .cfgFine]
  | .verify => [.release]
  | p => polledUops p q

theorem phaseUops_polled {s : State} {q : Phase} (hp : s.cur.phase.polled = true) :
    phaseUops s q = polledUops s.cur.phase q := by
  obtain h | h | h | h | h := phase_polled_ne hp <;> simp only [phaseUops, h]

theorem polledUops_stay {p : Phase} (hp : p.polled = true) : polledUops p p = [.lineRead, .elapsed] := by
  simp [polledUops, (Phase.ne_of_polled hp).1]

theorem polledUops_pass {p q : Phase} (hq : q.polled = true) (hne : q ≠ p) :
    polledUops p q = [.lineRead, .elapsed, .cfgFine] := by
  simp [polledUops, hq, hne]

theorem polledUops_verify (p : Phase) : polledUops p .verify = [.lineRead, .elapsed] := rfl

theorem polledUops_idle (p : Phase) : polledUops p .idle = [.lineRead, .elapsed, .release] := rfl

theorem Phase.ne_of_pass {q p : Phase}
    (h : (q, p) ∈ [(Phase.waitResponse, Phase.waitPreambleLow), (.waitPreambleLow, .waitPreambleHigh),
      (.waitPreambleHigh, .bitLow), (.bitLow, .bitHigh)]) : p ≠ q := by
  rintro rfl
  cases p <;> simp at h

/-- A cycle without a FETCH issues what its phase and the next one say. -/
theorem CycleCase.uops_eq {s : State} {us : List Uop} {r : Regs} (h : CycleCase s us r) (hf : s.hostFetches = false) :
    us = phaseUops s r.phase := by
  cases h with
  | idle hp => simp [phaseUops, hp]
  | fetch _ hf' => simp [hf] at hf'
  | hold hp _ _ ht => simp [phaseUops, hp, ht]
  | holdEnd hp _ _ _ ht => simp [phaseUops, hp, ht]
  | wait hp => exact ((phaseUops_polled hp).trans (polledUops_stay hp)).symm
  | timeout hp => exact ((phaseUops_polled hp).trans (polledUops_idle _)).symm
  | pass p hp =>
    obtain ⟨hfrom, hto, -⟩ := Phase.polled_of_pass hp
    exact ((phaseUops_polled hfrom).trans (polledUops_pass hto (Phase.ne_of_pass hp))).symm
  | bit _ hp => simp only [phaseUops, hp]; rfl
  | lastBit _ hp => simp only [phaseUops, hp]; rfl
  | invalid hp => simp only [phaseUops, hp]; rfl
  | success hp => simp [phaseUops, hp]
  | mismatch hp => simp [phaseUops, hp]

/-- Settles O26: the cycle's list is the one its two phases give, read off clause by clause. -/
theorem microOpsPerPhase : Obligations.MicroOpsPerPhase := by
  intro s t hd h
  obtain ⟨us, hc, hl⟩ := step_ordinary hd.ordinary h
  have hus : us = phaseUops s t.cur.phase := hc.uops_eq hd.no_fetch
  refine ⟨us, hl.history, ?idle, ?hold, ?holdEnd, ?stay, ?pass, ?lastBit, ?exit, ?verify⟩
  case idle => intro hp; simp [hus, phaseUops, hp]
  case hold => intro hp ht; simp [hus, phaseUops, hp, ht]
  case holdEnd => intro hp ht; simp [hus, phaseUops, hp, ht]
  case stay => intro hp hq; rw [hus, phaseUops_polled hp, hq, polledUops_stay hp]
  case pass => intro hp hne hq; rw [hus, phaseUops_polled hp, polledUops_pass hq hne]
  case lastBit => intro hp hq; rw [hus, phaseUops_polled hp, hq, polledUops_verify]
  case exit => intro hp hq; rw [hus, phaseUops_polled hp, hq, polledUops_idle]
  case verify => intro hp; simp [hus, phaseUops, hp]

end Sys2Proof.Machine
end

section
/-! PROOFS. The decoder's phase rules as single cycles (42_protocol_decoder.md R142-R144, R149-R153), the phase order (R154, R155) and
the ticks a run can still take (R156). Each cycle is one case of `CycleCase`; what its premises need of the classifier, the bit counter
and the checksum is said first. -/

namespace Sys2Proof.Machine

/-! ## The classifier (42_protocol_decoder.md R150) -/

theorem classify_eq_bit0_iff (c : Config) (w : Nat) : classify c w = .bit0 ↔ c.w0Min ≤ w ∧ w ≤ c.w0Max := by
  unfold classify
  split
  · simp [*]
  · split <;> simp [*]

/-- The bit-0 window is tested first, and PC1 keeps the bit-1 window apart from it. -/
theorem classify_eq_bit1_iff {c : Config} (hlegal : c.legal = true) (w : Nat) :
    classify c w = .bit1 ↔ c.w1Min ≤ w ∧ w ≤ c.w1Max := by
  have hwin := legal_windows hlegal
  unfold classify
  split
  · simp only [reduceCtorEq, false_iff]
    omega
  · split <;> simp [*]

theorem classify_eq_invalid_iff (c : Config) (w : Nat) :
    classify c w = .invalid ↔ ¬(c.w0Min ≤ w ∧ w ≤ c.w0Max) ∧ ¬(c.w1Min ≤ w ∧ w ≤ c.w1Max) := by
  unfold classify
  split
  · simp [*]
  · split <;> simp [*]

/-- Settles O35: outside both windows is below, between or above them, because PC1 puts them in order. -/
theorem classifierFollowsTheWindows : Obligations.ClassifierFollowsTheWindows := by
  intro c w hlegal
  refine ⟨classify_eq_bit0_iff c w, classify_eq_bit1_iff hlegal w, (classify_eq_invalid_iff c w).trans ?_⟩
  have hwin := legal_windows hlegal
  omega

/-- A width in the window of the bit `b` is classified as `b`. -/
theorem classify_of_window {c : Config} {w : Nat} {b : Bool} (hlegal : c.legal = true)
    (h : if b then c.w1Min ≤ w ∧ w ≤ c.w1Max else c.w0Min ≤ w ∧ w ≤ c.w0Max) :
    classify c w = if b then .bit1 else .bit0 := by
  cases b with
  | true => exact (classify_eq_bit1_iff hlegal w).2 h
  | false => exact (classify_eq_bit0_iff c w).2 h

/-! ## The bit counter and the checksum byte -/

/-- The next count is the 40th exactly after 39 (42_protocol_decoder.md R151). -/
theorem bitcnt_succ_eq_forty_iff (n : BitVec 6) : n + 1 = 40#6 ↔ n.toNat = 39 := by
  constructor <;> intro h <;> bv_omega

theorem bitcnt_succ_eq_ofNat (n : BitVec 6) : n + 1 = BitVec.ofNat 6 (n.toNat + 1) := by
  simp [BitVec.ofNat_add]

/-- A byte with one bit flipped is another byte. -/
theorem flip_bit_ne (b : Byte) {k : Nat} (hk : k < 8) : b ^^^ (1#8 <<< k) ≠ b := by
  intro h
  have hbit : (b ^^^ (1#8 <<< k)).getLsbD k = b.getLsbD k := by rw [h]
  simp [hk] at hbit

/-! ## The cycle that accepts a FETCH (42_protocol_decoder.md R143) -/

/-- Settles O15: in IDLE the transaction's meaning is the run's start, which `runStart_of_free` writes out. -/
theorem fetchStartsARun : Obligations.FetchStartsARun := by
  intro s hidle hfree
  calc exec .wrCmdFetch s
      = runStart s := if_neg (not_not_intro hidle)
    _ = _ := runStart_of_free hfree

/-- Settles O16: the cycle is `CycleCase.fetch`; its registers are a running machine's, and its records are the transaction and
the case's four micro-operations. -/
theorem fetchCycleLands : Obligations.FetchCycleLands := by
  intro s hlive hord halone hhost hidle hfree
  obtain ⟨t, hs, ht, hl⟩ := step_of_case hlive hord (.fetch hidle ((hostFetches_iff s).2 hhost) halone hfree)
  have hrun : Running t.cur := by
    rw [ht]
    exact ⟨rfl, rfl, rfl, rfl, rfl⟩
  have hrec : s.hostRecord = [.host s.cycle 0x801#12] := by rw [State.hostRecord, hhost]
  refine ⟨t, hs, statusByte_of_running hrun, ?_, ht⟩
  rw [hl.history, hrec, List.append_assoc]
  rfl

/-! ## The decoder's own cycles -/

/-- A decoder cycle that meets a case's premises leaves the case's registers. -/
theorem State.decoderCycle.step_of_case {s : State} {us : List Uop} {r : Regs} (hd : s.decoderCycle)
    (hc : CycleCase s us r) : ∃ t, step s = .next t ∧ t.cur = r := by
  obtain ⟨t, hs, ht, -⟩ := Machine.step_of_case hd.live hd.ordinary hc
  exact ⟨t, hs, ht⟩

/-- Settles O27: in IDLE the registers are those the other agents leave, and here no other agent writes. -/
theorem idleDoesNothing : Obligations.IdleDoesNothing := by
  intro s hd hp
  rw [← agentRegs_nil hd.alone]
  exact hd.step_of_case (.idle hp hd.no_fetch)

/-- Settles O28: the hold goes on below P_T_REQ and ends from it on. -/
theorem requestHoldEndsAtItsLength : Obligations.RequestHoldEndsAtItsLength := by
  intro s hd hp hheld
  constructor
  · intro hbelow
    exact hd.step_of_case (.hold hp hd.no_fetch hd.alone hbelow)
  · intro hreached
    exact hd.step_of_case (.holdEnd hp hd.no_fetch hd.alone hheld hreached)

/-- Settles O29: DHTDEC has released the line, so the sample is the environment's level, which is not the phase's exit level. -/
theorem polledPhaseWaits : Obligations.PolledPhaseWaits := by
  intro s hd hp hoe hline hbound
  rw [← lineSample_of_released hoe] at hline
  exact hd.step_of_case (.wait hp hd.no_fetch hd.alone hline hbound)

/-- Settles O32: the window gives the class, and the 40th bit is the one after the count 39. -/
theorem bitHighAcceptsAMeasuredBit : Obligations.BitHighAcceptsAMeasuredBit := by
  intro s b hd hp hheld hoe hline _ hwindow r
  have hsample : s.lineSample = false := (lineSample_of_released hoe).trans hline
  have hclass := classify_of_window hd.live.2 hwindow
  have hr : r = { s.cur with payload := shiftIn s.cur.payload b, bitcnt := s.cur.bitcnt + 1 } := by
    rw [bitcnt_succ_eq_ofNat]
    rfl
  rw [hr]
  split
  case isTrue hlast =>
    exact hd.step_of_case
      (.lastBit b hp hd.no_fetch hd.alone hsample hclass ((bitcnt_succ_eq_forty_iff _).2 hlast))
  case isFalse hmore =>
    exact hd.step_of_case
      (.bit b hp hd.no_fetch hd.alone hheld hsample hclass (mt (bitcnt_succ_eq_forty_iff _).1 hmore))

/-- Settles O33: a width in neither window is classified as invalid. -/
theorem bitHighRejectsAnInvalidWidth : Obligations.BitHighRejectsAnInvalidWidth := by
  intro s hd hp hheld hoe hline hnot0 hnot1
  have hsample : s.lineSample = false := (lineSample_of_released hoe).trans hline
  have hclass := (classify_eq_invalid_iff s.cfg s.cur.tcnt).2 ⟨hnot0, hnot1⟩
  exact hd.step_of_case (.invalid hp hd.no_fetch hd.alone hheld hsample hclass)

/-! ## VERIFY (42_protocol_decoder.md R152) -/

section
variable {s : State} {b0 b1 b2 b3 b4 : Byte}

theorem State.decoderCycle.step_verify_success (hd : s.decoderCycle) (hp : s.cur.phase = .verify)
    (hheld : s.cur.ctx = .held) (hpay : s.cur.payload = b0 ++ b1 ++ b2 ++ b3 ++ b4)
    (hsum : checksum b0 b1 b2 b3 = b4) :
    ∃ t, step s = .next t ∧
      t.cur = { afterFailure s .none with ok := true, data0 := b0, data1 := b1, data2 := b2, data3 := b3 } := by
  have hcase := CycleCase.success hp hd.no_fetch hd.alone hheld
  obtain ⟨h0, h1, h2, h3, h4⟩ := payloadBytes_frame b0 b1 b2 b3 b4
  rw [hpay, h0, h1, h2, h3, h4] at hcase
  exact hd.step_of_case (hcase hsum)

theorem State.decoderCycle.step_verify_mismatch (hd : s.decoderCycle) (hp : s.cur.phase = .verify)
    (hheld : s.cur.ctx = .held) (hpay : s.cur.payload = b0 ++ b1 ++ b2 ++ b3 ++ b4)
    (hsum : checksum b0 b1 b2 b3 ≠ b4) :
    ∃ t, step s = .next t ∧ t.cur = afterFailure s .checksumMismatch := by
  have hcase := CycleCase.mismatch hp hd.no_fetch hd.alone hheld
  obtain ⟨h0, h1, h2, h3, h4⟩ := payloadBytes_frame b0 b1 b2 b3 b4
  rw [hpay, h0, h1, h2, h3, h4] at hcase
  exact hd.step_of_case (hcase hsum)

end

/-- Settles O34: the checksum is the sum of the four bytes as a number modulo 256. -/
theorem verifyDecidesByTheChecksum : Obligations.VerifyDecidesByTheChecksum := by
  intro s b0 b1 b2 b3 b4 hd hp hheld hpay
  have hiff := checksum_eq_iff b0 b1 b2 b3 b4
  exact ⟨fun hsum => hd.step_verify_success hp hheld hpay (hiff.2 hsum),
    fun hsum => hd.step_verify_mismatch hp hheld hpay (mt hiff.1 hsum)⟩

/-- Settles O37: the sum's own byte passes VERIFY, and with a flipped bit it is another byte. -/
theorem checksumRoundTrip : Obligations.ChecksumRoundTrip := by
  intro s b0 b1 b2 b3 k hd hp hheld hk b4
  have hsum : checksum b0 b1 b2 b3 = b4 := rfl
  have hflip : checksum b0 b1 b2 b3 ≠ b4 ^^^ (1#8 <<< k) := hsum ▸ (flip_bit_ne _ hk).symm
  exact ⟨hsum, fun hpay => hd.step_verify_success hp hheld hpay hsum,
    fun hpay => hd.step_verify_mismatch hp hheld hpay hflip⟩

/-! ## The phase order (42_protocol_decoder.md R154, R155) -/

theorem agentRegs_phase (s : State) : (agentRegs s).phase = s.cur.phase := by
  obtain ⟨a, b, m, n, h⟩ := agentRegs_frame s
  rw [h]

theorem Phase.self_mem_successors {p : Phase} (hp : p ≠ .verify) : p ∈ phaseSuccessors p := by
  cases p <;> simp_all [phaseSuccessors]

theorem Phase.idle_mem_successors {p : Phase} (hp : p.released = true) : Phase.idle ∈ phaseSuccessors p := by
  cases p <;> simp_all [phaseSuccessors, Phase.released, Phase.polled]

/-- A phase that passes on the line goes to its successor. -/
theorem Phase.pass_mem_successors {q p : Phase}
    (h : (q, p) ∈ [(Phase.waitResponse, Phase.waitPreambleLow), (.waitPreambleLow, .waitPreambleHigh),
      (.waitPreambleHigh, .bitLow), (.bitLow, .bitHigh)]) : p ∈ phaseSuccessors q := by
  simp only [List.mem_cons, Prod.mk.injEq, List.not_mem_nil, or_false] at h
  obtain ⟨rfl, rfl⟩ | ⟨rfl, rfl⟩ | ⟨rfl, rfl⟩ | ⟨rfl, rfl⟩ := h <;> decide

/-- Every case of a cycle leaves a successor of its phase. -/
theorem CycleCase.phase_mem_successors {s : State} {us : List Uop} {r : Regs} (h : CycleCase s us r) :
    r.phase ∈ phaseSuccessors s.cur.phase := by
  cases h with
  | idle hp => exact agentRegs_phase s ▸ Phase.self_mem_successors (by simp [agentRegs_phase, hp])
  | fetch hp => simp [hp, phaseSuccessors]
  | hold hp => exact Phase.self_mem_successors (by simp [hp])
  | holdEnd hp => simp [hp, phaseSuccessors, afterFine]
  | wait hp => exact Phase.self_mem_successors (Phase.ne_of_polled hp).2.2
  | timeout hp => exact Phase.idle_mem_successors (Phase.released_of_polled hp)
  | pass p hp => exact Phase.pass_mem_successors hp
  | bit b hp => simp [hp, phaseSuccessors, afterFine]
  | lastBit b hp => simp [hp, phaseSuccessors]
  | invalid hp => exact Phase.idle_mem_successors (by rw [hp]; rfl)
  | success hp => exact Phase.idle_mem_successors (by rw [hp]; rfl)
  | mismatch hp => exact Phase.idle_mem_successors (by rw [hp]; rfl)

/-- Settles O49: the successors case by case; an exit sets DONE and clears BUSY; and a cycle that leaves IDLE starts a run. -/
theorem phasesFollowTheOrder : Obligations.PhasesFollowTheOrder := by
  intro s t hord hs
  obtain ⟨us, hc, -⟩ := step_ordinary hord hs
  refine ⟨hc.phase_mem_successors, fun hbusy hidle => ?_, fun hidle hreq => ?_⟩
  · obtain ⟨reason, o, b0, b1, b2, b3, hr⟩ := hc.eq_of_exit hbusy hidle
    rw [hr]
    exact ⟨rfl, rfl⟩
  · obtain (⟨hfetch, -⟩ | hbusy) | hagents := hc.eq_agentRegs
    · exact hfetch
    · exact absurd hidle hbusy
    · rw [hagents, agentRegs_phase, hidle] at hreq
      cases hreq

/-! ## The ticks a run can still take (42_protocol_decoder.md R156) -/

/-- In every phase at most the whole run's ticks are left: the bits to come are at most 39 beside the current one. -/
theorem ticksLeft_le_whole_run (c : Config) (r : Regs) :
    ticksLeft c r ≤ (c.tReq + 1) + (c.tResp + 2) + (c.tPreLow + 2) + (c.tPreHigh + 2) +
      40 * ((c.tBitLow + 2) + (c.tBitHigh + 2)) + 1 := by
  have hslots : (39 - r.bitcnt.toNat) * slotTicks c ≤ 39 * slotTicks c :=
    Nat.mul_le_mul_right _ (Nat.sub_le _ _)
  have hslot : slotTicks c = (c.tBitLow + 2) + (c.tBitHigh + 2) := rfl
  cases hp : r.phase <;>
  · simp only [ticksLeft, hp, bitsTicks]
    omega

/-- Settles O56: the cycle's case takes its tick off the ticks left. -/
theorem ticksLeftDecrease : Obligations.TicksLeftDecrease := by
  intro s t hinv hbusy hquiet hs
  obtain ⟨hord, -, -⟩ := hquiet
  obtain ⟨us, hc, -⟩ := step_ordinary hord hs
  obtain ⟨-, hlegal⟩ := live_of_step hs
  exact ⟨hc.ticksLeft_le hinv.regs hlegal hbusy, ticksLeft_le_whole_run s.cfg s.cur⟩

end Sys2Proof.Machine
end

section
/-! PROOFS. The host-visible outcome of a run (43_host_interface.md R195): what each exit leaves in STATUS, BITCNT and DATA0-DATA3. -/

namespace Sys2Proof.Machine

/-! ## The exits of a run -/

/-- BITCNT at the exit of a failure, by its reason (43_host_interface.md R195); no failure has the reason `none`. -/
def Reason.leavesCount (n : Nat) : Reason → Prop
  | .none => False
  | .noResponse => n = 0
  | .preambleLow => n = 0
  | .preambleHigh => n = 0
  | .bitLowPhase => n ≤ 39
  | .bitHighPhase => n ≤ 39
  | .invalidBitTiming => n ≤ 39
  | .checksumMismatch => n = 40

theorem RunInv.count_le_39 {c : Config} {r : Regs} (h : RunInv c r) (hp : r.phase = .bitLow ∨ r.phase = .bitHigh) :
    r.bitcnt.toNat ≤ 39 :=
  Nat.le_of_lt_succ (h.spec.bitcnt_lt hp)

theorem RunInv.count_zero {c : Config} {r : Regs} (h : RunInv c r) (hp : r.phase.beforeBits = true) :
    r.bitcnt.toNat = 0 := by
  rw [h.no_bits hp]
  rfl

/-- A timeout before the bits leaves BITCNT 0, one within them at most 39 (60_exceptions.md R201-R205). -/
theorem RunInv.timeout_leavesCount {c : Config} {r : Regs} (h : RunInv c r) (hp : r.phase.polled = true) :
    r.phase.timeout.leavesCount r.bitcnt.toNat := by
  obtain hq | hq | hq | hq | hq := phase_polled_ne hp <;> rw [hq]
  · exact h.count_zero (by rw [hq]; rfl)
  · exact h.count_zero (by rw [hq]; rfl)
  · exact h.count_zero (by rw [hq]; rfl)
  · exact h.count_le_39 (.inl hq)
  · exact h.count_le_39 (.inr hq)

/-- The registers after the success exit of VERIFY in the cycle `s` (60 R209). -/
def afterSuccess (s : State) : Regs :=
  { afterFailure s .none with
    ok := true, data0 := payloadByte0 s.cur.payload, data1 := payloadByte1 s.cur.payload
    data2 := payloadByte2 s.cur.payload, data3 := payloadByte3 s.cur.payload }

/-- VERIFY's test in the cycle `s` (42_protocol_decoder.md R152). -/
def State.checksumRight (s : State) : Prop :=
  checksum (payloadByte0 s.cur.payload) (payloadByte1 s.cur.payload) (payloadByte2 s.cur.payload)
    (payloadByte3 s.cur.payload) = payloadByte4 s.cur.payload

/-- A run's exit is a failure with its reason's BITCNT, or VERIFY's success. -/
theorem CycleCase.exit_cases {s : State} {us : List Uop} {r : Regs} (h : CycleCase s us r) (hi : RunInv s.cfg s.cur)
    (hp : s.cur.phase ≠ .idle) (hr : r.phase = .idle) :
    (∃ reason, Reason.leavesCount s.cur.bitcnt.toNat reason ∧ r = afterFailure s reason) ∨
      (s.cur.phase = .verify ∧ s.checksumRight ∧ r = afterSuccess s) := by
  have hrel : us.count .release = 1 := h.count_release.trans (if_pos ⟨hp, hr⟩)
  cases h with
  | timeout hq => exact .inl ⟨_, hi.timeout_leavesCount hq, rfl⟩
  | invalid hq => exact .inl ⟨.invalidBitTiming, hi.count_le_39 (.inr hq), rfl⟩
  | mismatch hq => exact .inl ⟨.checksumMismatch, hi.spec.bitcnt_verify hq, rfl⟩
  | success hq _ _ _ hs => exact .inr ⟨hq, hs, rfl⟩
  | _ => exact absurd hrel (by decide)

theorem statusByte_afterFailure (s : State) (reason : Reason) :
    statusByte (afterFailure s reason) = 0x02#8 ||| (reason.code.setWidth 8 <<< 4) :=
  statusByte_of_failure rfl rfl rfl

theorem statusByte_afterSuccess (s : State) : statusByte (afterSuccess s) = 0x06#8 :=
  statusByte_of_success rfl rfl rfl rfl

/-- A success shows the first four bytes of the frame, and the fifth is their checksum. -/
theorem afterSuccess_frame {s : State} (h : s.checksumRight) : ∃ b4 : Byte,
    (afterSuccess s).payload =
      (afterSuccess s).data0 ++ (afterSuccess s).data1 ++ (afterSuccess s).data2 ++ (afterSuccess s).data3 ++ b4 ∧
    ((afterSuccess s).data0.toNat + (afterSuccess s).data1.toNat + (afterSuccess s).data2.toNat +
      (afterSuccess s).data3.toNat) % 256 = b4.toNat :=
  ⟨payloadByte4 s.cur.payload, payload_split s.cur.payload, (checksum_eq_iff ..).1 h⟩

/-! ## The cycles up to the exit -/

/-- DATA0-DATA3 hold in `r'` what they hold in `r`. -/
def Regs.SameData (r r' : Regs) : Prop :=
  r'.data0 = r.data0 ∧ r'.data1 = r.data1 ∧ r'.data2 = r.data2 ∧ r'.data3 = r.data3

theorem Regs.SameData.trans {a b c : Regs} (h : a.SameData b) (k : b.SameData c) : a.SameData c := by
  obtain ⟨h0, h1, h2, h3⟩ := h
  obtain ⟨k0, k1, k2, k3⟩ := k
  exact ⟨k0.trans h0, k1.trans h1, k2.trans h2, k3.trans h3⟩

/-- A cycle that does not leave OK set writes no DATA (10_state.md R39). -/
theorem CycleCase.sameData {s : State} {us : List Uop} {r : Regs} (h : CycleCase s us r) (hok : r.ok = false) :
    s.cur.SameData r :=
  h.data_writer.resolve_left fun hw => by simp [hok] at hw

/-- In a cycle `x` of the run that the FETCH of the cycle `s` starts: the invariant holds and DATA0-DATA3 are untouched. -/
structure WithinRun (s x : State) : Prop where
  inv : RunInv x.cfg x.cur
  data : s.cur.SameData x.cur

/-- An accepted FETCH establishes the invariant, whatever the registers were. -/
theorem CycleCase.runInv_of_starts {s : State} {us : List Uop} {r : Regs} (h : CycleCase s us r) (hs : s.starts) :
    RunInv s.cfg r := by
  have hacq : us.count .acquire = 1 := h.count_acquire.trans (if_pos ⟨hs.2, hs.1⟩)
  cases h with
  | fetch => exact runInv_fetch s.cfg s.cur
  | _ => exact absurd hacq (by decide)

theorem withinRun_of_starts {s t : State} {us : List Uop} (hs : s.starts) (hc : CycleCase s us t.cur)
    (hl : Landed s us t) : WithinRun s t := by
  have hreq := (hc.of_starts hs).1
  have hinv : RunInv t.cfg t.cur := hl.cfg ▸ hc.runInv_of_starts hs
  exact ⟨hinv, hc.sameData (hinv.running (by simp [hreq])).ok⟩

theorem WithinRun.step {s x y : State} {us : List Uop} (h : WithinRun s x) (hy : y.cur.phase ≠ .idle)
    (hc : CycleCase x us y.cur) (hl : Landed x us y) : WithinRun s y := by
  have hinv : RunInv y.cfg y.cur := hl.cfg ▸ hc.runInv h.inv
  exact ⟨hinv, h.data.trans (hc.sameData (hinv.running hy).ok)⟩

/-- Settles O53: the cycles up to the exit keep the invariant and DATA0-DATA3, and the exit is one of the eight. -/
theorem runHasOneOfEightOutcomes : Obligations.RunHasOneOfEightOutcomes := by
  intro s k u h
  obtain ⟨x, us, hw, hx, hc, hl⟩ := h.last_cycle (P := fun _ => WithinRun s)
    (start := fun t us => withinRun_of_starts ⟨h.fetch, h.entry⟩)
    (keep := fun j x y us hP _ => hP.step)
  have hidle := (hc.runInv hw.inv).idleInv h.idle
  refine ⟨hidle.lineOe, hidle.lineOut, runRestoresTheTimer s k u h, ?_⟩
  obtain ⟨reason, hn, hu⟩ | ⟨hverify, hsum, hu⟩ := hc.exit_cases hw.inv hx h.idle
  · right
    have hdata := hw.data
    have hstatus := statusByte_afterFailure x reason
    rw [hu, hstatus]
    cases reason with
    | none => exact hn.elim
    | noResponse => exact .inl ⟨rfl, hn, hdata⟩
    | preambleLow => exact .inr (.inl ⟨rfl, hn, hdata⟩)
    | preambleHigh => exact .inr (.inr (.inl ⟨rfl, hn, hdata⟩))
    | bitLowPhase => exact .inr (.inr (.inr (.inl ⟨rfl, hn, hdata⟩)))
    | bitHighPhase => exact .inr (.inr (.inr (.inr (.inl ⟨rfl, hn, hdata⟩))))
    | invalidBitTiming => exact .inr (.inr (.inr (.inr (.inr (.inl ⟨rfl, hn, hdata⟩)))))
    | checksumMismatch => exact .inr (.inr (.inr (.inr (.inr (.inr ⟨rfl, hn, hdata⟩)))))
  · left
    rw [hu]
    exact ⟨statusByte_afterSuccess x, hw.inv.spec.bitcnt_verify hverify, afterSuccess_frame hsum⟩

end Sys2Proof.Machine
end

section
/-! PROOFS. The host port (43_host_interface.md): the words that change nothing (R182, R183), FETCH outside IDLE (R181), and a cycle
with a transaction beside the same cycle without it (R180). -/

namespace Sys2Proof.Machine

/-! ## Single transactions -/

/-- Settles O14: `execWrCmdFetch` tests PHASE first. -/
theorem fetchDuringARunFaults : Obligations.FetchDuringARunFaults := fun _ hp => if_pos hp

/-- From 0x900 on a word is a write to another address than CMD's (30_encoding.md R73). -/
theorem write_of_ge_0x900 {w : HpwWord} (h : 0x900 ≤ w.toNat) : w.we = true ∧ w.addr ≠ 0 := by
  constructor
  · have hmsb : w.msb = true := by
      rw [BitVec.msb_eq_decide, decide_eq_true_iff]
      omega
    exact (BitVec.msb_eq_getLsbD_last w).symm.trans hmsb
  · intro h0
    have haddr : w.toNat / 2 ^ 8 % 2 ^ 3 = 0 := by
      simpa [HpwWord.addr, BitVec.extractLsb'_toNat, Nat.shiftRight_eq_div_pow] using congrArg BitVec.toNat h0
    omega

theorem exec_of_ge_0x900 {w : HpwWord} (h : 0x900 ≤ w.toNat) (s : State) : exec (decodeHpw w) s = .next s := by
  obtain ⟨hwe, haddr⟩ := write_of_ge_0x900 h
  rw [decodeHpw_of_we hwe, exec_decodeWrite_of_ne_zero _ _ haddr]

/-- Settles O12: every word from 0x900 on is an ignored write, and NOP and the seven ignored writes leave the state as it is by
their definitions. -/
theorem nopAndReadOnlyWritesChangeNothing : Obligations.NopAndReadOnlyWritesChangeNothing := fun _ s =>
  ⟨rfl, fun _ h => exec_of_ge_0x900 h s, rfl, rfl, rfl, rfl, rfl, rfl, rfl, rfl⟩

/-! ## Two cycles side by side -/

/-- Two states within one cycle, from histories that began as `H` and `K`: they differ at most in the host transaction, the result
signals, where the histories began and, unless `P` holds, REFUSED. -/
structure Beside (P : Prop) (H K : List Event) (s t : State) : Prop where
  cfg : t.cfg = s.cfg
  cur : t.cur = s.cur
  nxt : t.nxt = s.nxt
  cntWr : t.cntWr = s.cntWr
  cycle : t.cycle = s.cycle
  now : t.now = { s.now with host := t.now.host }
  tail : t.inputs.tail = s.inputs.tail
  refused : P → t.refused = s.refused
  history : ∃ l, s.history = H ++ l ∧ t.history = K ++ l

/-- Where `o` answers a next state, `p` answers one beside it. -/
def AnswersBeside (P : Prop) (H K : List Event) (o p : Res) : Prop :=
  ∀ a, o = .next a → ∃ b, p = .next b ∧ Beside P H K a b

/-- Two states between cycles that differ at most in the result signals, where the histories began and, unless `P` holds, REFUSED. -/
structure LandBeside (P : Prop) (H K : List Event) (t u : State) : Prop where
  cur : u.cur = t.cur
  nxt : u.nxt = t.nxt
  cfg : u.cfg = t.cfg
  inputs : u.inputs = t.inputs
  cycle : u.cycle = t.cycle
  refused : P → u.refused = t.refused
  history : ∃ l, t.history = H ++ l ∧ u.history = K ++ l

section
variable {P : Prop} {H K : List Event} {s t : State}

theorem answersBeside_next (h : Beside P H K s t) : AnswersBeside P H K (.next s) (.next t) := by
  intro a ha
  cases ha
  exact ⟨t, rfl, h⟩

theorem answersBeside_fault (f : Fault) (p : Res) : AnswersBeside P H K (.fault f) p := by
  intro a ha
  cases ha

theorem AnswersBeside.andThen {o p : Res} {f g : State → Res} (h : AnswersBeside P H K o p)
    (hf : ∀ a b, Beside P H K a b → AnswersBeside P H K (f a) (g b)) :
    AnswersBeside P H K (andThen o f) (andThen p g) := by
  intro c hc
  obtain ⟨a, ho, hfa⟩ := andThen_eq_next.1 hc
  obtain ⟨b, hp, hb⟩ := h a ho
  obtain ⟨d, hd, hcd⟩ := hf a b hb c hfa
  exact ⟨d, andThen_eq_next.2 ⟨b, hp, hd⟩, hcd⟩

namespace Beside
variable (h : Beside P H K s t)
include h

theorem line : t.now.line = s.now.line := by rw [h.now]

theorem ticks : t.ticks = s.ticks := by
  have htick : t.now.tick = s.now.tick := by rw [h.now]
  simp [State.ticks, State.timerRunning, htick, h.cfg, h.cur]

theorem lineSample : t.lineSample = s.lineSample := by
  simp [State.lineSample, h.line, h.cur]

/-! ### The updates of a state -/

theorem stage (f : Regs → Regs) : Beside P H K (s.stage f) (t.stage f) :=
  { h with nxt := congrArg f h.nxt }

theorem stageTcnt (v : Nat) : Beside P H K (s.stageTcnt v) (t.stageTcnt v) :=
  { h with nxt := congrArg (fun r : Regs => { r with tcnt := v }) h.nxt, cntWr := rfl }

theorem emit (u : Uop) : Beside P H K (s.emit u) (t.emit u) := by
  obtain ⟨l, hs, ht⟩ := h.history
  exact { h with history := ⟨l ++ [.uop s.cycle u], by simp [hs], by simp [ht, h.cycle]⟩ }

theorem markRefused (n : RefuseName) : Beside P H K (s.markRefused n) (t.markRefused n) :=
  { h with refused := fun hp => congrArg (·.or (some n)) (h.refused hp) }

theorem withSig (x y : Signals) : Beside P H K { s with sig := x } { t with sig := y } :=
  { h with }

theorem beginCycle : Beside P H K s.beginCycle t.beginCycle :=
  { h with nxt := h.cur, cntWr := rfl }

theorem clearHistory : Beside P [] [] s.clearHistory t.clearHistory :=
  { h with history := ⟨[], rfl, rfl⟩ }

theorem advance (r : Regs) : LandBeside P H K (s.advance r) (t.advance r) :=
  { h with cur := rfl, nxt := rfl, inputs := h.tail, cycle := congrArg (· + 1) h.cycle }

theorem endCycle : LandBeside P H K s.endCycle t.endCycle := by
  have htcnt : t.tcntNext = s.tcntNext := by
    simp [State.tcntNext, h.ticks, h.cfg, h.cur, h.nxt, h.cntWr]
  rw [State.endCycle, State.endCycle, htcnt, h.nxt]
  exact h.advance _

theorem agentWrite (w : AgentWrite) : Beside P H K (applyAgentWrite s w) (applyAgentWrite t w) := by
  cases w with
  | tcnt v =>
    rw [applyAgentWrite, applyAgentWrite, h.cfg]
    exact h.stageTcnt _
  | tccra v => exact h.stage fun r => { r with tccra := v }
  | tccrb v => exact h.stage fun r => { r with tccrb := v }
  | timsk v => exact h.stage fun r => { r with timsk := v }

/-! ### The shared operations -/

theorem elapsed : Beside P H K (opElapsed s) (opElapsed t) :=
  (h.withSig _ _).emit .elapsed

theorem lineRead : Beside P H K (opLineRead s) (opLineRead t) :=
  (h.withSig _ _).emit .lineRead

theorem acquire : AnswersBeside P H K (opAcquire s) (opAcquire t) := by
  rw [opAcquire, opAcquire, h.cur]
  split
  · exact answersBeside_fault _ _
  · exact answersBeside_next ((h.stage _).emit _)

theorem configure (u : Uop) (a b : TReg) (g : Regime) :
    AnswersBeside P H K (opConfigure u a b g s) (opConfigure u a b g t) := by
  rw [opConfigure, opConfigure, h.nxt, h.cfg]
  split
  · exact answersBeside_fault _ _
  · exact answersBeside_next (((h.stage _).stageTcnt 0).emit u)

theorem cfgCoarse : AnswersBeside P H K (opCfgCoarse s) (opCfgCoarse t) := by
  rw [opCfgCoarse, opCfgCoarse, h.cfg]
  exact h.configure _ _ _ _

theorem cfgFine : AnswersBeside P H K (opCfgFine s) (opCfgFine t) := by
  rw [opCfgFine, opCfgFine, h.cfg]
  exact h.configure _ _ _ _

theorem release : AnswersBeside P H K (opRelease s) (opRelease t) := by
  rw [opRelease, opRelease, h.cur]
  split
  · exact answersBeside_fault _ _
  · exact answersBeside_next ((h.stage _).emit _)

theorem runStart : AnswersBeside P H K (runStart s) (runStart t) :=
  h.acquire.andThen fun _ _ h => h.cfgCoarse.andThen fun _ _ h =>
    answersBeside_next ((((h.stage _).emit .dirOut).stage _).emit .lineLow |>.stage _)

theorem failureExit (reason : Reason) : AnswersBeside P H K (failureExit reason s) (failureExit reason t) :=
  h.release.andThen fun _ _ h => answersBeside_next (h.stage _)

theorem successExit (b0 b1 b2 b3 : Byte) :
    AnswersBeside P H K (successExit b0 b1 b2 b3 s) (successExit b0 b1 b2 b3 t) :=
  h.release.andThen fun _ _ h => answersBeside_next (h.stage _)

theorem enterPhase (p : Phase) : AnswersBeside P H K (enterPhase p s) (enterPhase p t) :=
  h.cfgFine.andThen fun _ _ h => answersBeside_next (h.stage _)

/-- No instruction's meaning depends on the host transaction of its cycle. -/
theorem exec (i : Instr) : AnswersBeside P H K (exec i s) (exec i t) := by
  cases i with
  | wrCmdFetch =>
    show AnswersBeside P H K (execWrCmdFetch s) (execWrCmdFetch t)
    rw [execWrCmdFetch, execWrCmdFetch, h.cur]
    split
    · exact answersBeside_fault _ _
    · exact h.runStart
  | acquire => exact h.acquire
  | cfgCoarse => exact h.cfgCoarse
  | cfgFine => exact h.cfgFine
  | elapsed => exact answersBeside_next h.elapsed
  | release => exact h.release
  | lineRead => exact answersBeside_next h.lineRead
  | dirOut => exact answersBeside_next ((h.stage _).emit _)
  | dirIn => exact answersBeside_next ((h.stage _).emit _)
  | lineLow => exact answersBeside_next ((h.stage _).emit _)
  | lineHigh => exact answersBeside_next ((h.stage _).emit _)
  | reservedCmd d => exact answersBeside_next (h.markRefused _)
  | reservedUop u => exact answersBeside_next (h.markRefused _)
  | _ => exact answersBeside_next { h with }

/-! ### The phase rules -/

theorem pollPhase (level : Bool) (bound : Nat) (reason : Reason) {f g : Nat → State → Res}
    (hf : ∀ n a b, Beside P H K a b → AnswersBeside P H K (f n a) (g n b)) :
    AnswersBeside P H K (pollPhase level bound reason f s) (pollPhase level bound reason g t) := by
  have hpoll := h.lineRead.elapsed
  rw [Machine.pollPhase, Machine.pollPhase, h.lineSample, h.cur]
  split
  · exact hf _ _ _ hpoll
  · split
    · exact hpoll.failureExit reason
    · exact answersBeside_next hpoll

theorem acceptBit (b : Bool) : AnswersBeside P H K (acceptBit b s) (acceptBit b t) := by
  rw [Machine.acceptBit, Machine.acceptBit, h.cur]
  split
  · exact answersBeside_next ((h.stage _).stage _)
  · exact (h.stage _).enterPhase _

theorem bitAccept (c : BitClass) : AnswersBeside P H K (bitAccept c s) (bitAccept c t) := by
  cases c with
  | invalid => exact h.failureExit _
  | bit0 => exact h.acceptBit _
  | bit1 => exact h.acceptBit _

theorem phaseRequestStart : AnswersBeside P H K (phaseRequestStart s) (phaseRequestStart t) := by
  rw [Machine.phaseRequestStart, Machine.phaseRequestStart, h.cfg, h.cur]
  split
  · exact ((((h.elapsed.stage _).emit .lineHigh).stage _).emit .dirIn).enterPhase _
  · exact answersBeside_next h.elapsed

theorem phaseVerify : AnswersBeside P H K (phaseVerify s) (phaseVerify t) := by
  rw [Machine.phaseVerify, Machine.phaseVerify, h.cur]
  split
  · exact h.successExit _ _ _ _
  · exact h.failureExit _

/-- No phase rule depends on the host transaction of its cycle (43_host_interface.md R180). -/
theorem phaseStep : AnswersBeside P H K (phaseStep s) (phaseStep t) := by
  have polls (level : Bool) (bound : Config → Nat) (reason : Reason) (p : Phase) :
      AnswersBeside P H K (Machine.pollPhase level (bound s.cfg) reason (fun _ => Machine.enterPhase p) s)
        (Machine.pollPhase level (bound t.cfg) reason (fun _ => Machine.enterPhase p) t) := by
    rw [h.cfg]
    exact h.pollPhase _ _ _ fun _ _ _ h => h.enterPhase p
  unfold Machine.phaseStep
  rw [h.cur]
  cases s.cur.phase with
  | idle => exact answersBeside_next h
  | requestStart => exact h.phaseRequestStart
  | waitResponse => exact polls _ (·.tResp) _ _
  | waitPreambleLow => exact polls _ (·.tPreLow) _ _
  | waitPreambleHigh => exact polls _ (·.tPreHigh) _ _
  | bitLow => exact polls _ (·.tBitLow) _ _
  | bitHigh =>
    show AnswersBeside P H K (phaseBitHigh s) (phaseBitHigh t)
    rw [phaseBitHigh, phaseBitHigh, h.cfg]
    exact h.pollPhase _ _ _ fun _ _ _ h => h.bitAccept _
  | verify => exact h.phaseVerify

end Beside

theorem runUops_beside (us : List UopCode) :
    ∀ {s t : State}, Beside P H K s t → AnswersBeside P H K (runUops us s) (runUops us t) := by
  induction us with
  | nil => exact answersBeside_next
  | cons u us ih => exact fun h => (h.exec _).andThen fun _ _ => ih

theorem Beside.decoderPart (h : Beside P H K s t) : AnswersBeside P H K (decoderPart s) (decoderPart t) := by
  have htrace : t.now.trace = s.now.trace := by rw [h.now]
  unfold Machine.decoderPart
  rw [htrace]
  cases s.now.trace with
  | none => exact h.phaseStep
  | some us => exact runUops_beside us h

theorem applyAgentWrites_beside (ws : List AgentWrite) :
    ∀ {s t : State}, Beside P H K s t → Beside P H K (applyAgentWrites s ws) (applyAgentWrites t ws) := by
  induction ws with
  | nil => exact id
  | cons w ws ih => exact fun h => ih (h.agentWrite w)

/-- The ownership window is the same where neither cycle fetches (20_memory.md R60). -/
theorem Beside.agentWrites (h : Beside P H K s t) (hs : s.hostFetches = false) (ht : t.hostFetches = false) :
    AnswersBeside P H K (agentWrites s) (agentWrites t) := by
  have hwr : t.now.agentWr = s.now.agentWr := by rw [h.now]
  have howns : t.owns = s.owns := by rw [State.owns, State.owns, h.cur, hs, ht]
  rw [Machine.agentWrites, Machine.agentWrites, hwr, howns]
  split
  · exact answersBeside_next h
  · split
    · exact answersBeside_fault _ _
    · exact answersBeside_next (applyAgentWrites_beside _ h)

end

/-! ## A cycle with a transaction beside the same cycle without it -/

/-- The other agents' writes are no host transaction and leave no record (log entry 19). -/
theorem agentWrites_keep {s a : State} (h : agentWrites s = .next a) : a.now = s.now ∧ a.cycle = s.cycle ∧ a.history = s.history := by
  have happ : a = applyAgentWrites s s.now.agentWr := by
    unfold agentWrites at h
    split at h
    case isTrue hnil =>
      cases h
      rw [hnil]
      rfl
    case isFalse =>
      split at h
      · cases h
      · cases h
        rfl
  obtain ⟨x, y, m, n, wr, hf⟩ := applyAgentWrites_frame s.now.agentWr s
  rw [happ, hf]
  exact ⟨rfl, rfl, rfl⟩

/-- `s` with the word `w` as the host transaction of its cycle. -/
def State.withTransaction (s : State) (w : HpwWord) : State :=
  { s with inputs := { s.now with host := some w } :: s.inputs.tail }

/-- The word is no reserved command (30_encoding.md R74, 43_host_interface.md R184). -/
def DefinedWord (w : HpwWord) : Prop := ∀ d, decodeHpw w ≠ .reservedCmd d

section
variable {s t : State} {w : HpwWord}

theorem beside_withTransaction (P : Prop) (s : State) (w : HpwWord) :
    Beside P s.history s.history s (s.withTransaction w) :=
  ⟨rfl, rfl, rfl, rfl, rfl, rfl, rfl, fun _ => rfl, [], by simp, by simp [State.withTransaction]⟩

theorem hostFetches_of_no_host (h : s.now.host = none) : s.hostFetches = false := by
  simp [State.hostFetches, h]

theorem hostFetches_withTransaction (hw : w ≠ 0x801#12) : (s.withTransaction w).hostFetches = false := by
  have hhost : (s.withTransaction w).now.host = some w := rfl
  rw [← Bool.not_eq_true, hostFetches_iff, hhost]
  exact mt Option.some_inj.1 hw

/-- The host port with a word that is no FETCH, beside the port at rest: it adds the transaction's record. -/
theorem Beside.hostPort {H K : List Event} (h : Beside (DefinedWord w) H K s t) (hs : s.now.host = none)
    (ht : t.now.host = some w) (hw : w ≠ 0x801#12) :
    AnswersBeside (DefinedWord w) s.history (t.history ++ [.host s.cycle w]) (hostPort s) (hostPort t) := by
  have hrest : Machine.hostPort s = .next s := by simp [Machine.hostPort, hs]
  obtain ⟨hfetch, -⟩ | ⟨-, sg, rf, hexec, -, hrf⟩ := exec_decodeHpw w (t.record w)
  · exact absurd hfetch hw
  · rw [hrest, hostPort_of_host ht, hexec]
    exact answersBeside_next
      { h with
        refused := fun hd => (hrf hd).trans (h.refused hd)
        history := ⟨[], by simp, by simp [h.cycle]⟩ }

/-- A cycle without reset (42_protocol_decoder.md R140), part by part. -/
theorem runCycle_withTransaction (hhost : s.now.host = none) (hw : w ≠ 0x801#12) (h : runCycle s = .next t) :
    ∃ u, runCycle (s.withTransaction w) = .next u ∧
      LandBeside (DefinedWord w) s.history (s.history ++ [.host s.cycle w]) t u := by
  obtain ⟨a, ha, h⟩ := andThen_eq_next.1 h
  obtain ⟨b, hb, h⟩ := andThen_eq_next.1 h
  obtain ⟨c, hc, h⟩ := andThen_eq_next.1 h
  cases h
  obtain ⟨a', ha', hab⟩ := (beside_withTransaction (DefinedWord w) s w).beginCycle.agentWrites
    (hostFetches_of_no_host (s := s.beginCycle) hhost)
    (hostFetches_withTransaction (s := s.beginCycle) hw) a ha
  obtain ⟨hnow, hcyc, hhist⟩ := agentWrites_keep ha
  obtain ⟨hnow', -, hhist'⟩ := agentWrites_keep ha'
  obtain ⟨b', hb', hbb⟩ := hab.hostPort (by rw [hnow]; exact hhost) (by rw [hnow']; rfl) hw b hb
  obtain ⟨c', hc', hcc⟩ := hbb.decoderPart c hc
  refine ⟨c'.endCycle, ?_, ?_⟩
  · rw [runCycle, ha', andThen_next, hb', andThen_next, hc', andThen_next]
  · rw [hhist, hhist', hcyc] at hcc
    exact hcc.endCycle

/-- A reset of DHTDEC alone leaves the host port aside (70_reset_and_hazards.md R232, R233). -/
theorem blockResetCycle_withTransaction (P : Prop) (w : HpwWord) (h : blockResetCycle s = .next t) :
    ∃ u, blockResetCycle (s.withTransaction w) = .next u ∧ LandBeside P [] [] t u := by
  have hb := ((beside_withTransaction P s w).beginCycle.clearHistory.stage (Regs.blockReset s.cfg))
  unfold blockResetCycle at h
  split at h
  case isTrue => cases h
  case isFalse hbusy =>
    cases h
    exact ⟨_, if_neg hbusy, (applyAgentWrites_beside s.now.agentWr hb).endCycle⟩

/-- A step with the word `w` as its transaction lands beside the step without one; where the cycle is no reset, the records differ by
the transaction's. -/
theorem step_withTransaction (hhost : s.now.host = none) (hw : w ≠ 0x801#12) (h : step s = .next t) :
    ∃ u H K, step (s.withTransaction w) = .next u ∧ LandBeside (DefinedWord w) H K t u ∧
      (s.now.rst = .run → H = s.history ∧ K = s.history ++ [.host s.cycle w]) := by
  have hl : s.live := live_of_step h
  have hrst : (s.withTransaction w).now.rst = s.now.rst := rfl
  rw [step_of_live hl] at h
  rw [step_of_live (s := s.withTransaction w) hl, hrst]
  cases hr : s.now.rst with
  | run =>
    rw [hr] at h
    obtain ⟨u, hu, hland⟩ := runCycle_withTransaction hhost hw h
    exact ⟨u, _, _, hu, hland, fun _ => ⟨rfl, rfl⟩⟩
  | system =>
    rw [hr] at h
    cases h
    exact ⟨_, _, _, rfl, (beside_withTransaction _ s w).beginCycle.clearHistory.advance _, nofun⟩
  | block =>
    rw [hr] at h
    obtain ⟨u, hu, hland⟩ := blockResetCycle_withTransaction (DefinedWord w) w h
    exact ⟨u, _, _, hu, hland, nofun⟩

end

/-- Settles O17: the two cycles stay beside each other part by part, and the host port's part adds the one record. -/
theorem transactionsDoNotDisturbARun : Obligations.TransactionsDoNotDisturbARun := by
  intro s i is w t hin hhost hw hs
  have hnow : s.now = i := now_of_cons hin
  have htrans : { s with inputs := { i with host := some w } :: is } = s.withTransaction w := by
    simp [State.withTransaction, hnow, hin]
  obtain ⟨u, H, K, hu, hland, hrun⟩ := step_withTransaction (hnow ▸ hhost) hw hs
  refine ⟨u, htrans ▸ hu, hland.cur, hland.nxt, hland.cfg, hland.inputs, hland.cycle, hland.refused, fun hr => ?_⟩
  obtain ⟨l, ht, hl⟩ := hland.history
  obtain ⟨rfl, rfl⟩ := hrun (hnow ▸ hr)
  exact ⟨l, ht, by simpa using hl⟩

end Sys2Proof.Machine
end

section
/-! PROOFS. The timeouts of the polled phases (60_exceptions.md R201-R205): the one case `CycleCase.timeout`, read at a given phase. -/

namespace Sys2Proof.Machine

/-- DHTDEC has released the line, so the sample is the environment's level (41_line_io.md R125). -/
theorem State.decoderCycle.step_timeout {s : State} (hd : s.decoderCycle) (hheld : s.cur.ctx = .held)
    (hoe : s.cur.lineOe = false) (p : Phase) (hpolled : p.polled = true) (hp : s.cur.phase = p)
    (hline : s.now.line ≠ p.exitLevel) (hbound : p.bound s.cfg < s.cur.tcnt) :
    ∃ t, step s = .next t ∧ t.cur = afterFailure s p.timeout := by
  subst hp
  rw [← lineSample_of_released hoe] at hline
  exact hd.step_of_case (.timeout hpolled hd.no_fetch hd.alone hheld hline hbound)

/-- Settles O30: each polled phase has its own waiting level, bound and reason. -/
theorem polledPhaseTimesOut : Obligations.PolledPhaseTimesOut := by
  intro s hd hheld hoe
  have timesOut := hd.step_timeout hheld hoe
  refine ⟨?waitResponse, ?waitPreambleLow, ?waitPreambleHigh, ?bitLow, ?bitHigh⟩ <;> intro hp hline hbound
  case waitResponse => exact timesOut .waitResponse rfl hp (by simp [hline, Phase.exitLevel]) hbound
  case waitPreambleLow => exact timesOut .waitPreambleLow rfl hp (by simp [hline, Phase.exitLevel]) hbound
  case waitPreambleHigh => exact timesOut .waitPreambleHigh rfl hp (by simp [hline, Phase.exitLevel]) hbound
  case bitLow => exact timesOut .bitLow rfl hp (by simp [hline, Phase.exitLevel]) hbound
  case bitHigh => exact timesOut .bitHigh rfl hp (by simp [hline, Phase.exitLevel]) hbound

end Sys2Proof.Machine
end

section
/-! PROOFS. The reset values (70_reset_and_hazards.md R230), and how the host port reads them. -/

namespace Sys2Proof.Machine

/-- PHASE as the host reads it in IDLE (10_state.md R21, 43_host_interface.md R191). -/
theorem hostRead_phase_of_idle {r : Regs} (h : r.phase = .idle) : hostRead 6 r = 0x00#8 := by
  simp [hostRead, h, Phase.code]

/-- BITCNT as the host reads it before any bit (43_host_interface.md R192). -/
theorem hostRead_bitcnt_of_zero {r : Regs} (h : r.bitcnt = 0) : hostRead 7 r = 0x00#8 := by
  simp [hostRead, h]

/-- Settles O40: the registers and the marks stand in `State.boot` as R230 lists them; the reads follow from those registers. -/
theorem resetValues : Obligations.ResetValues := by
  intro c ins s r
  have hphase : r.phase = .idle := rfl
  have hbitcnt : r.bitcnt = 0 := rfl
  have hstatus : statusByte r = 0x00#8 := statusByte_before_any_exit rfl rfl rfl rfl
  refine ⟨?registers, ?bookkeeping, hstatus, hostRead_phase_of_idle hphase, hostRead_bitcnt_of_zero hbitcnt⟩
  case registers => exact ⟨hphase, hbitcnt, rfl, rfl, rfl, rfl, rfl, rfl, rfl, rfl, rfl, rfl, rfl, rfl, rfl, rfl, rfl, rfl⟩
  case bookkeeping => exact ⟨rfl, rfl, rfl⟩

end Sys2Proof.Machine
end

section
/-! PROOFS. The byte containers (log entry 16): an encoded word read back, bytes that are no container, and the instruction of a table
word where the step takes it (log entry 17). -/

namespace Sys2Proof

/-! ## Decoding what was encoded -/

/-- A reserved micro-operation code is none of the ten rows' codes (30_encoding.md R75, R76). -/
theorem decodeUop_reserved : ∀ u : UopCode, reservedUopCode u = true → decodeUop u = .reservedUop u := by decide

/-- The decoder inverts the encoder on well-formed instructions (30_encoding.md R73, R75). -/
theorem decode_encode {i : Instr} (h : i.wellFormed = true) : decode (encode i) = i := by
  cases i with
  | wrCmdFetch => exact decodeHpw_write 0 0x01
  | wrCmdNop => exact decodeHpw_write 0 0x00
  | reservedCmd d => exact (decodeHpw_write 0 d).trans (decodeCmd_reserved h)
  | wrStatus d => exact decodeHpw_write 1 d
  | wrData0 d => exact decodeHpw_write 2 d
  | wrData1 d => exact decodeHpw_write 3 d
  | wrData2 d => exact decodeHpw_write 4 d
  | wrData3 d => exact decodeHpw_write 5 d
  | wrPhase d => exact decodeHpw_write 6 d
  | wrBitcnt d => exact decodeHpw_write 7 d
  | rdCmd d => exact decodeHpw_read 0 d
  | rdStatus d => exact decodeHpw_read 1 d
  | rdData0 d => exact decodeHpw_read 2 d
  | rdData1 d => exact decodeHpw_read 3 d
  | rdData2 d => exact decodeHpw_read 4 d
  | rdData3 d => exact decodeHpw_read 5 d
  | rdPhase d => exact decodeHpw_read 6 d
  | rdBitcnt d => exact decodeHpw_read 7 d
  | reservedUop u => exact decodeUop_reserved u h
  | _ => rfl

/-- The container bytes of a word of either format give the word back. -/
theorem decodeBytes_bytes (e : EncWord) (rest : List Byte) :
    decodeBytes e.format (e.bytes ++ rest) = .ok (decode e, rest) := by
  cases e with
  | hpw w => exact decodeBytes_hpw w rest
  | uop u => exact decodeBytes_uop u rest

/-- Settles O2: the bytes give the word back, and the word the instruction. -/
theorem decodeOfEncodeGivesItBack : Obligations.DecodeOfEncodeGivesItBack := by
  intro i rest h
  rw [decodeBytes_bytes, decode_encode h]

/-! ## Bytes that are no container -/

/-- The pad bits of a container's upper byte (log entry 16). -/
theorem toNat_pad (b : Byte) : (b.extractLsb' 4 4).toNat = b.toNat / 16 := by
  rw [BitVec.extractLsb'_toNat, Nat.shiftRight_eq_div_pow]
  omega

theorem pad_eq_zero_iff (b : Byte) : b.extractLsb' 4 4 = 0#4 ↔ b.toNat < 16 := by
  rw [← BitVec.toNat_inj, toNat_pad]
  simp

theorem decodeBytes_hpw_cons (lo hi : Byte) (rest : List Byte) :
    decodeBytes .hpw (lo :: hi :: rest) =
      if hi.toNat < 16 then .ok (decodeHpw (hi.extractLsb' 0 4 ++ lo), rest) else .error (.padNotZero .hpw) := by
  simp only [← pad_eq_zero_iff]
  rfl

theorem decodeBytes_uop_cons (b : Byte) (rest : List Byte) :
    decodeBytes .uop (b :: rest) =
      if b.toNat < 16 then .ok (decodeUop (b.extractLsb' 0 4), rest) else .error (.padNotZero .uop) := by
  simp only [← pad_eq_zero_iff]
  rfl

/-- Settles O5: the short lists have equations of their own, and 16 is the first byte with a pad bit. -/
theorem badContainersAreRejected : Obligations.BadContainersAreRejected := by
  refine fun lo hi rest => ⟨rfl, rfl, rfl, fun h => ?_, fun h => ?_⟩
  · rw [decodeBytes_hpw_cons, if_neg (Nat.not_lt.2 h)]
  · rw [decodeBytes_uop_cons, if_neg (Nat.not_lt.2 h)]

/-! ## Table words -/

/-- The two container bytes of a host word's number are the word. -/
theorem container_ofNat (w : Nat) :
    ((BitVec.ofNat 8 (w / 2 ^ 8)).extractLsb' 0 4 ++ BitVec.ofNat 8 w : HpwWord) = BitVec.ofNat 12 w := by
  apply BitVec.eq_of_toNat_eq
  rw [Machine.toNat_append_bytes, BitVec.extractLsb'_toNat]
  simp only [BitVec.toNat_ofNat, Nat.shiftRight_zero]
  omega

theorem extractLsb'_ofNat_byte (w : Nat) : (BitVec.ofNat 8 w).extractLsb' 0 4 = BitVec.ofNat 4 w := by
  apply BitVec.eq_of_toNat_eq
  rw [BitVec.extractLsb'_toNat]
  simp only [BitVec.toNat_ofNat, Nat.shiftRight_zero]
  omega

/-- A table word of more than 8 bits is a host word if it has at most 12. -/
theorem decodeTableWord_hpw (w : Nat) :
    decodeTableWord 16 w = if w < 2 ^ 12 then some (decodeHpw (BitVec.ofNat 12 w)) else none := by
  unfold decodeTableWord
  rw [decodeBytes_hpw_cons, container_ofNat, BitVec.toNat_ofNat, if_neg (by decide)]
  by_cases hword : w < 2 ^ 12
  · rw [if_pos (by omega), if_pos (by omega), if_pos hword]
  · rw [if_neg hword]
    by_cases hbytes : w < 2 ^ 16
    · rw [if_pos hbytes, if_neg (by omega)]
    · rw [if_neg hbytes]

/-- A table word of up to 8 bits is a micro-operation's code if it has at most 4. -/
theorem decodeTableWord_uop (w : Nat) :
    decodeTableWord 8 w = if w < 2 ^ 4 then some (decodeUop (BitVec.ofNat 4 w)) else none := by
  unfold decodeTableWord
  rw [decodeBytes_uop_cons, extractLsb'_ofNat_byte, BitVec.toNat_ofNat, if_pos (by decide)]
  by_cases hword : w < 2 ^ 4
  · rw [if_pos (by omega), if_pos (by omega), if_pos hword]
  · rw [if_neg hword]
    by_cases hbyte : w < 2 ^ 8
    · rw [if_pos hbyte, if_neg (by omega)]
    · rw [if_neg hbyte]

theorem eq_decodeHpw_of_tableWord {w : Nat} {i : Instr} (h : decodeTableWord 16 w = some i) :
    i = decodeHpw (BitVec.ofNat 12 w) := by
  rw [decodeTableWord_hpw, Option.ite_none_right_eq_some] at h
  exact (Option.some_inj.1 h.2).symm

theorem eq_decodeUop_of_tableWord {w : Nat} {i : Instr} (h : decodeTableWord 8 w = some i) :
    i = decodeUop (BitVec.ofNat 4 w) := by
  rw [decodeTableWord_uop, Option.ite_none_right_eq_some] at h
  exact (Option.some_inj.1 h.2).symm

namespace Machine

/-! ## The step of a cycle with a trace -/

theorem hostPort_of_silent {s : State} (h : s.now.host = none) : hostPort s = .next s := by
  simp [hostPort, h]

theorem decoderPart_of_traced {s : State} {us : List UopCode} (h : s.now.trace = some us) :
    decoderPart s = runUops us s := by
  simp [decoderPart, h]

theorem runUops_singleton (u : UopCode) (s : State) : runUops [u] s = exec (decodeUop u) s := by
  show andThen (exec (decodeUop u) s) Host.Outcome.next = _
  cases exec (decodeUop u) s <;> rfl

/-- Settles O9: in such a cycle the other agents' part and the host port's leave the state that begins the cycle. -/
theorem stepRunsTheTracedUop : Obligations.StepRunsTheTracedUop := by
  intro s u h
  calc step s
      = runCycle s := step_of_run h.live h.run
    _ = andThen (runUops [u] s.beginCycle) fun a => .next a.endCycle := by
      rw [runCycle, agentWrites_of_alone (s := s.beginCycle) h.alone, andThen_next,
        hostPort_of_silent (s := s.beginCycle) h.silent, andThen_next, decoderPart_of_traced (s := s.beginCycle) h.uop]
    _ = andThen (exec (decode (.uop u)) s.beginCycle) fun a => .next a.endCycle := by
      rw [runUops_singleton, decode]

/-- Settles O10: the placed word makes the cycle one of those that O8 and O9 speak of. -/
theorem stepRunsThePlacedWord : Obligations.StepRunsThePlacedWord := by
  intro s w i hl
  constructor
  case left =>
    intro h
    rw [eq_decodeHpw_of_tableWord h]
    exact stepRunsTheHostTransaction (s.withFetchWord 16 w) _ hl ⟨rfl, rfl⟩ rfl rfl
  case right =>
    intro h
    rw [eq_decodeUop_of_tableWord h]
    exact stepRunsTheTracedUop (s.withFetchWord 8 w) _ ⟨hl, rfl, rfl, rfl, rfl⟩

end Machine

end Sys2Proof
end

section
/-! PROOFS. The timer between runs: the transitions of its context (40_timer_context.md R106), the counter (R111) and the other agents'
writes outside the ownership window (R114). -/

namespace Sys2Proof.Machine

/-! ## The context's transitions -/

theorem State.traceCycle.step_next {s a : State} {u : UopCode} (h : s.traceCycle u)
    (he : exec (decodeUop u) s.beginCycle = .next a) : step s = .next a.endCycle := by
  rw [stepRunsTheTracedUop s u h, decode, he, andThen_next]

theorem State.traceCycle.step_fault {s : State} {u : UopCode} {f : Fault} (h : s.traceCycle u)
    (he : exec (decodeUop u) s.beginCycle = .fault f) : step s = .fault f := by
  rw [stepRunsTheTracedUop s u h, decode, he, andThen_fault]

/-- Settles O22: the cycle begins with CTX in both copies of the registers, and each micro-operation has one law for each CTX. -/
theorem contextTransitions : Obligations.ContextTransitions := by
  intro s
  refine ⟨?acquire, ?coarse, ?fine, ?release, ?nested, ?unborrowed, ?unreleased, ?elapsed⟩
  case acquire => exact fun h hfree => ⟨_, h.step_next (opAcquire_of_free (s := s.beginCycle) hfree), rfl, rfl⟩
  case coarse =>
    exact fun h hheld =>
      ⟨_, h.step_next (opConfigure_of_held (s := s.beginCycle) _ _ _ _ hheld), hheld, rfl, rfl⟩
  case fine =>
    exact fun h hheld =>
      ⟨_, h.step_next (opConfigure_of_held (s := s.beginCycle) _ _ _ _ hheld), hheld, rfl, rfl⟩
  case release => exact fun h hheld => ⟨_, h.step_next (opRelease_of_held (s := s.beginCycle) hheld), rfl, rfl⟩
  case nested => exact fun h hheld => h.step_fault (opAcquire_of_held (s := s.beginCycle) hheld)
  case unborrowed =>
    rintro (h | h) hfree <;> exact h.step_fault (opConfigure_of_free (s := s.beginCycle) _ _ _ _ hfree)
  case unreleased => exact fun h hfree => h.step_fault (opRelease_of_free (s := s.beginCycle) hfree)
  case elapsed => exact fun h => ⟨_, h.step_next rfl, rfl, rfl⟩

/-! ## The counter -/

/-- A micro-operation that resets the counter (40 R101, R102). -/
def resetsCounter (u : Uop) : Bool := u == .cfgCoarse || u == .cfgFine

/-- A cycle in which no other agent writes leaves TCNT to the tick. -/
theorem agentRegs_tcnt_alone {s : State} (h : s.now.agentWr = []) : (agentRegs s).tcnt = s.counted := by
  rw [agentRegs_nil h]

/-- TCNT is 0 after a cycle with a configuration, else what the other agents and the tick leave (40 R111). -/
theorem CycleCase.tcnt_eq {s : State} {us : List Uop} {r : Regs} (h : CycleCase s us r) :
    r.tcnt = if us.any resetsCounter then 0 else (agentRegs s).tcnt := by
  cases h with
  | idle => rfl
  | fetch => rfl
  | holdEnd => rfl
  | pass => rfl
  | bit => rfl
  | hold _ _ ha => exact (agentRegs_tcnt_alone ha).symm
  | wait _ _ ha => exact (agentRegs_tcnt_alone ha).symm
  | timeout _ _ ha => exact (agentRegs_tcnt_alone ha).symm
  | lastBit _ _ _ ha => exact (agentRegs_tcnt_alone ha).symm
  | invalid _ _ ha => exact (agentRegs_tcnt_alone ha).symm
  | success _ _ ha => exact (agentRegs_tcnt_alone ha).symm
  | mismatch _ _ ha => exact (agentRegs_tcnt_alone ha).symm

/-- Among a cycle's records a configuration's stands where the cycle issued one: the host transaction's record is none. -/
theorem any_records (s : State) (us : List Uop) :
    (s.records us).any (fun e => e.isUop .cfgCoarse || e.isUop .cfgFine) = us.any resetsCounter := by
  have hhost : s.hostRecord.any (fun e => e.isUop .cfgCoarse || e.isUop .cfgFine) = false := by
    unfold State.hostRecord
    split <;> rfl
  rw [State.records, List.any_append, hhost, Bool.false_or, List.any_map]
  rfl

/-- Settles O23: the step's records are those of its case, and the case's TCNT goes by its micro-operations. -/
theorem counterFollowsTheTickRule : Obligations.CounterFollowsTheTickRule := by
  intro s t ho h
  obtain ⟨us, hcase, hland⟩ := step_ordinary ho h
  refine ⟨s.records us, hland.history_eq, ?_⟩
  rw [any_records, hcase.tcnt_eq, agentRegs_tcnt]
  rfl

/-! ## Other agents' writes in IDLE -/

/-- Settles O39: outside the window the registers are those that the other agents leave, here by one write. -/
theorem timerWriteOutsideTheWindowLands : Obligations.TimerWriteOutsideTheWindowLands := by
  intro s v n hl ho hp hf
  have lands : ∀ r, agentRegs s = r → ∃ t, step s = .next t ∧ t.cur = r := by
    rintro r rfl
    obtain ⟨t, hs, ht, -⟩ := step_of_case hl ho (.idle hp hf)
    exact ⟨t, hs, ht⟩
  refine ⟨fun hw => lands _ ?_, fun hw => lands _ ?_, fun hw => lands _ ?_, fun hw => lands _ ?_⟩ <;>
  rw [agentRegs, hw] <;> rfl

end Sys2Proof.Machine
end

section
/-! PROOFS. Marks, resets and bookkeeping: a refusal of a reserved code (60_exceptions.md R217), FAULTED (R216), the reset cycles
(70_reset_and_hazards.md R230-R233) and what every step does with what is no register (10_state.md R37). -/

namespace Sys2Proof.Machine

/-! ## The marks -/

/-- REFUSED holds the first refusal's name (log entry 10). -/
theorem markRefused_eq (s : State) (n : RefuseName) :
    s.markRefused n = { s with refused := some (s.refused.getD n) } := by
  cases h : s.refused <;> simp [State.markRefused, h]

/-- Settles O13: both meanings are `State.markRefused`, each with its own name. -/
theorem reservedCodesSetRefusedOnly : Obligations.ReservedCodesSetRefusedOnly := fun _ _ s =>
  ⟨congrArg Host.Outcome.next (markRefused_eq s .reservedCommand),
    congrArg Host.Outcome.next (markRefused_eq s .reservedUop)⟩

theorem step_of_faulted {s : State} {f : Fault} (h : s.faulted = some f) : step s = .fault f := by
  simp [step, cycleStep, h]

theorem marked_of_fault {s : State} {f : Fault} (h : step s = .fault f) : s.marked = { s with faulted := some f } := by
  simp [State.marked, h]

/-- Settles O45: the mark is tested before every other part of a cycle, and a step that faults sets it. -/
theorem faultedStaysFaulted : Obligations.FaultedStaysFaulted := by
  intro s f
  have marks : step s = .fault f → s.marked.faulted = some f := fun h => by rw [marked_of_fault h]
  exact ⟨fun h => ⟨step_of_faulted h, marks (step_of_faulted h)⟩, marks⟩

/-! ## Reset -/

/-- Settles O41: `State.reset` is by definition the machine just built, and its parameters are checked one by one. -/
theorem resetIsLegalAndSettled : Obligations.ResetIsLegalAndSettled :=
  ⟨rfl, ⟨rfl, show Config.atReset.legal = true by decide⟩, inv_boot Config.atReset []⟩

theorem step_of_system {s : State} (hl : s.live) (hr : s.now.rst = .system) : step s = .next (systemResetCycle s) := by
  rw [step_of_live hl, hr]

theorem step_of_block {s : State} (hl : s.live) (hr : s.now.rst = .block) : step s = blockResetCycle s := by
  rw [step_of_live hl, hr]

/-- Settles O42: the cycle puts the reset values in place of the registers and takes no other input. -/
theorem systemResetForcesResetValues : Obligations.SystemResetForcesResetValues := fun _ hl hr =>
  ⟨_, step_of_system hl hr, rfl, rfl, rfl, rfl, rfl, rfl, rfl, rfl⟩

/-- A reset of DHTDEC alone, with no other agent's write (70 R232; log entry 13). -/
theorem blockResetCycle_of_idle {s : State} (hb : s.cur.busy = false) (ha : s.now.agentWr = []) :
    blockResetCycle s = .next (s.beginCycle.clearHistory.stage (Regs.blockReset s.cfg)).endCycle := by
  simp [blockResetCycle, hb, ha, applyAgentWrites]

/-- Settles O43: BUSY decides; in the idle block nothing writes TCNT, so it counts on. -/
theorem blockResetAlone : Obligations.BlockResetAlone := by
  intro s hl hr
  rw [step_of_block hl hr]
  exact ⟨fun hb => if_pos hb, fun hb ha => ⟨_, blockResetCycle_of_idle hb ha, rfl, rfl, rfl⟩⟩

/-! ## The bookkeeping -/

/-- What every cycle leaves beside the registers and the history, resets and traces included. -/
structure Closed (s t : State) : Prop where
  cfg : t.cfg = s.cfg
  faulted : t.faulted = s.faulted
  refused : ∀ n, s.refused = some n → t.refused = some n
  nxt : t.nxt = t.cur
  cntWr : t.cntWr = false
  inputs : t.inputs = s.inputs.tail
  cycle : t.cycle = s.cycle + 1

theorem Landed.closed {s t : State} {us : List Uop} (h : Landed s us t) : Closed s t :=
  ⟨h.cfg, h.faulted, h.refused, h.nxt, h.cntWr, h.inputs, h.cycle⟩

theorem ResetLanded.closed {s t : State} (h : ResetLanded s t) : Closed s t :=
  ⟨h.cfg, h.faulted, fun _ hn => h.refused.trans hn, h.nxt, h.cntWr, h.inputs, h.cycle⟩

theorem Kept.closed {s b : State} (h : Kept s.beginCycle b) : Closed s b.endCycle :=
  ⟨h.cfg, h.faulted, h.refused, rfl, rfl, congrArg List.tail h.inputs, congrArg (· + 1) h.cycle⟩

/-- A cycle with a trace keeps what its micro-operations keep (log entry 7). -/
theorem kept_of_traced {s t : State} {us : List UopCode} (ht : s.now.trace = some us) (h : runCycle s = .next t) :
    ∃ b, Kept s.beginCycle b ∧ t = b.endCycle := by
  obtain ⟨a, b, ha, hb, rfl⟩ := runCycle_parts h
  have htrace : a.now.trace = some us := by rw [ha.now]; exact ht
  rw [decoderPart_of_traced htrace] at hb
  exact ⟨b, ha.trans (runUops_kept us a b hb), rfl⟩

/-- A cycle without reset, its micro-operations the phase rule's or a trace's, adds records. -/
theorem closed_of_run {s t : State} (hr : s.now.rst = .run) (h : step s = .next t) :
    Closed s t ∧ ∃ l, t.history = s.history ++ l := by
  cases ht : s.now.trace with
  | none =>
    obtain ⟨us, -, hl⟩ := step_ordinary ⟨hr, ht⟩ h
    exact ⟨hl.closed, _, hl.history_eq⟩
  | some us =>
    rw [step_of_run (live_of_step h) hr] at h
    obtain ⟨b, hb, rfl⟩ := kept_of_traced ht h
    exact ⟨hb.closed, hb.history⟩

/-- Settles O46: a cycle without reset adds records, a reset cycle empties the history, and both close the cycle alike. -/
theorem stepKeepsTheBookkeeping : Obligations.StepKeepsTheBookkeeping := by
  intro s t h
  have hclosed : Closed s t := by
    by_cases hr : s.now.rst = .run
    · exact (closed_of_run hr h).1
    · exact (step_reset hr h).closed
  have hfaulted : s.faulted = none := (live_of_step h).1
  exact ⟨hclosed.cfg, hfaulted, hclosed.faulted.trans hfaulted, hclosed.refused, fun hr => (closed_of_run hr h).2,
    fun hr => (step_reset hr h).history, hclosed.nxt, hclosed.cntWr, hclosed.inputs, hclosed.cycle⟩

end Sys2Proof.Machine
end
